-- ==== Sys2Proof/Word.lean ====
section
/-! DEFINITION. The machine's word types (10_state, 30_encoding). -/

namespace Sys2Proof

/-- A general register, a memory byte, a timer (R14, R19, R27). -/
abbrev Byte := BitVec 8

/-- I, PC, a return address, an instruction word (R16, R17, R18, R50). -/
abbrev Word := BitVec 16

/-- A 4-bit field: a count, a plane mask, a key index (R52). -/
abbrev Nibble := BitVec 4

/-- The 4-bit index of a general register (R14). -/
abbrev RegIdx := BitVec 4

/-- The 12-bit address field nnn (R50, R52). -/
abbrev Addr12 := BitVec 12

end Sys2Proof
end

