-- ==== Sys2Proof/Config.lean ====
section
/-! DEFINITION. What is fixed for one machine: the Variant, the OPEN parameters of R6, the closed values of the
quirks, and the values the spec leaves free. -/

namespace Sys2Proof

/-- The Variant, fixed at construction (R2, R20). -/
inductive Variant where
  | chip8
  | schip
  | xochip
  deriving DecidableEq, Repr

/-- The OPEN sizes of R6, fixed at construction. The spec calls them parameters, not state (R35); the model carries
them beside the state as read-only data (DESIGN CHOICE, safe: log 3). -/
structure Params where
  /-- XO_MEM_SIZE: the bytes of memory of an XOCHIP machine. -/
  xoMemSize  : Nat
  /-- STACK_DEPTH: the most return addresses the stack holds. -/
  stackDepth : Nat
  deriving DecidableEq, Repr

/-- FONT_SMALL, the 5-byte hex glyphs, has no default (R6, D6): an uninterpreted constant (log 2). -/
opaque Config.fontSmall : Vector Byte 80

/-- FONT_BIG, the 10-byte hex glyphs, has no default (R6, D6): an uninterpreted constant (log 2). -/
opaque Config.fontBig : Vector Byte 160

/-- rand8, the byte the n-th CXNN draws: a free input under no law (R98, D21; log 4). -/
opaque Config.rand8 : Nat → Byte

/-- The defaults R6 gives XO_MEM_SIZE and STACK_DEPTH. -/
def Params.default : Params := { xoMemSize := 65536, stackDepth := 16 }

/-- PROFILE bit 0 (R21): which register 8XY6 and 8XYE shift. -/
inductive ShiftQuirk where
  | vySource
  | vxInPlace
  deriving DecidableEq, Repr

/-- PROFILE bit 1 (R21): whether FX55 and FX65 advance I. -/
inductive LoadStoreQuirk where
  | increment
  | unchanged
  deriving DecidableEq, Repr

/-- PROFILE bit 2 (R21): which register BNNN adds. -/
inductive JumpQuirk where
  | v0
  | vx
  deriving DecidableEq, Repr

/-- PROFILE bit 3 (R21): whether 8XY1, 8XY2 and 8XY3 clear VF. -/
inductive LogicQuirk where
  | vfKept
  | vfCleared
  deriving DecidableEq, Repr

/-- PROFILE bit 4 (R21): what becomes of sprite pixels past an edge. -/
inductive ClipQuirk where
  | wrap
  | clip
  deriving DecidableEq, Repr

/-- PROFILE bit 5 (R21): whether a draw waits for the next frame. -/
inductive VblankQuirk where
  | noWait
  | wait
  deriving DecidableEq, Repr

/-- PROFILE bit 6 (R21): the key edge that ends a key wait. -/
inductive KeyEdge where
  | press
  | release
  deriving DecidableEq, Repr

/-- PROFILE bit 7 (R21): what a draw leaves in VF. -/
inductive CollisionQuirk where
  | flag
  | rows
  deriving DecidableEq, Repr

/-- The preset "CHIP-8 classic" (R22). -/
def Profile.classic : Byte := 0x78#8

/-- The preset "SUPER-CHIP modern" (R22). -/
def Profile.modern : Byte := 0x57#8

/-- The preset "XO-CHIP" (R22). -/
def Profile.xo : Byte := 0x40#8

end Sys2Proof
end

