-- ==== Sys2Proof/Syntax.lean ====
section
/-! DEFINITION. The instruction set: one constructor per row of spec/opcode_table.json, in the table's order, with the
operands R50 and R52 give it. -/

namespace Sys2Proof

/-- The 51 instructions (R53). `x` and `y` are register indices, `n` a 4-bit count or mask, `nn` an 8-bit immediate,
`nnn` a 12-bit address, `nnnn` the second word of F000 NNNN. -/
inductive Instr where
  | cls
  | ret
  | scd (n : Nibble)
  | scu (n : Nibble)
  | scr
  | scl
  | exit
  | low
  | high
  | jp (nnn : Addr12)
  | call (nnn : Addr12)
  | seImm (x : RegIdx) (nn : Byte)
  | sneImm (x : RegIdx) (nn : Byte)
  | seReg (x y : RegIdx)
  | saveRange (x y : RegIdx)
  | loadRange (x y : RegIdx)
  | ldImm (x : RegIdx) (nn : Byte)
  | addImm (x : RegIdx) (nn : Byte)
  | ldReg (x y : RegIdx)
  | or (x y : RegIdx)
  | and (x y : RegIdx)
  | xor (x y : RegIdx)
  | addReg (x y : RegIdx)
  | sub (x y : RegIdx)
  | shr (x y : RegIdx)
  | subn (x y : RegIdx)
  | shl (x y : RegIdx)
  | sneReg (x y : RegIdx)
  | ldI (nnn : Addr12)
  | jpOff (nnn : Addr12)
  | rnd (x : RegIdx) (nn : Byte)
  | drw (x y : RegIdx) (n : Nibble)
  | drw16 (x y : RegIdx)
  | skp (x : RegIdx)
  | sknp (x : RegIdx)
  | ldILong (nnnn : Word)
  | plane (n : Nibble)
  | audio
  | ldVxDt (x : RegIdx)
  | ldVxK (x : RegIdx)
  | ldDt (x : RegIdx)
  | ldSt (x : RegIdx)
  | addI (x : RegIdx)
  | ldF (x : RegIdx)
  | ldHf (x : RegIdx)
  | bcd (x : RegIdx)
  | ldPitch (x : RegIdx)
  | store (x : RegIdx)
  | load (x : RegIdx)
  | saveFlags (x : RegIdx)
  | loadFlags (x : RegIdx)
  deriving DecidableEq, Repr

end Sys2Proof
end

