-- ==== Sys2Proof/WellFormed.lean ====
section
/-! DEFINITION. Which instruction terms an opcode row stands for. Every operand has the width of its field, so the one
check left is the table's constraint on DXYN. -/

namespace Sys2Proof

/-- `i` is an instance of its opcode row: the DXYN row has the constraint n ≠ 0, since DXY0 is the row DRW16 (R55). -/
def Instr.wf : Instr → Bool
  | .drw _ _ n => n != 0#4
  | .cls | .ret | .scd _ | .scu _ | .scr | .scl | .exit | .low | .high => true
  | .jp _ | .call _ | .seImm _ _ | .sneImm _ _ | .seReg _ _ | .sneReg _ _ | .jpOff _ | .skp _ | .sknp _ => true
  | .saveRange _ _ | .loadRange _ _ | .bcd _ | .store _ | .load _ | .saveFlags _ | .loadFlags _ => true
  | .ldImm _ _ | .addImm _ _ | .ldReg _ _ | .or _ _ | .and _ _ | .xor _ _ | .addReg _ _ | .sub _ _ => true
  | .shr _ _ | .subn _ _ | .shl _ _ | .rnd _ _ | .drw16 _ _ | .plane _ => true
  | .ldI _ | .ldILong _ | .addI _ | .ldF _ | .ldHf _ => true
  | .ldVxDt _ | .ldVxK _ | .ldDt _ | .ldSt _ | .audio | .ldPitch _ => true

end Sys2Proof
end

