-- ==== Sys2Proof/Decode.lean ====
section
/-! DEFINITION. The decoder of 30_encoding, total on any word and any bytes, and after it the encoder and the host's
numbering of an opcode row's bits. -/

namespace Sys2Proof

/-! ### Fields of an instruction word (R50) -/

/-- o = w[15:12]. -/
def fieldO (w : Word) : Nibble := w.extractLsb' 12 4

/-- x = w[11:8]. -/
def fieldX (w : Word) : Nibble := w.extractLsb' 8 4

/-- y = w[7:4]. -/
def fieldY (w : Word) : Nibble := w.extractLsb' 4 4

/-- n = w[3:0]. -/
def fieldN (w : Word) : Nibble := w.extractLsb' 0 4

/-- nn = w[7:0], from its two nibbles. -/
def joinNN (y n : Nibble) : Byte := y ++ n

/-- nnn = w[11:0], from its three nibbles. -/
def joinNNN (x y n : Nibble) : Addr12 := x ++ y ++ n

/-- The word with the four nibbles o, x, y, n. -/
def pack (o x y n : Nibble) : Word := o ++ x ++ y ++ n

/-- The big-endian word of two bytes: the first supplies bits 15:8 (R39). -/
def wordOfBytes (hi lo : Byte) : Word := hi ++ lo

/-! ### Legality by Variant (R54) -/

/-- RPL_COUNT: how many flag bytes FX75 and FX85 may reach (R6, R28). -/
def rplCount : Variant → Nat
  | .chip8 => 0
  | .schip => 8
  | .xochip => 16

/-- The extensions' Variants: legal in SCHIP and XOCHIP. -/
def fromSchip : Variant → Bool
  | .chip8 => false
  | .schip => true
  | .xochip => true

/-- Legal in XOCHIP only. -/
def onlyXochip : Variant → Bool
  | .chip8 => false
  | .schip => false
  | .xochip => true

/-- The legality table of R54. FX75 and FX85 are legal exactly when x is below RPL_COUNT. -/
def Instr.legalIn (v : Variant) : Instr → Bool
  | .scd _ | .scr | .scl | .exit | .low | .high | .drw16 _ _ | .ldHf _ => fromSchip v
  | .saveFlags x | .loadFlags x => x.toNat < rplCount v
  | .scu _ | .saveRange _ _ | .loadRange _ _ | .ldILong _ | .plane _ | .audio | .ldPitch _ => onlyXochip v
  | .cls | .ret | .jp _ | .call _ | .seImm _ _ | .sneImm _ _ | .seReg _ _ | .sneReg _ _ => true
  | .ldImm _ _ | .addImm _ _ | .ldReg _ _ | .or _ _ | .and _ _ | .xor _ _ | .addReg _ _ | .sub _ _ => true
  | .shr _ _ | .subn _ _ | .shl _ _ | .ldI _ | .jpOff _ | .rnd _ _ | .drw _ _ _ | .skp _ | .sknp _ => true
  | .ldVxDt _ | .ldVxK _ | .ldDt _ | .ldSt _ | .addI _ | .ldF _ | .bcd _ | .store _ | .load _ => true

/-! ### The decoder -/

/-- The opcode row that the nibbles o, x, y, n select, whatever the Variant, with its operands (R53). `nnnn` is the
second word, an operand of F000 NNNN alone. Every fixed bit must match (R56). -/
def decodeFields (o x y n : Nibble) (nnnn : Word) : Option Instr :=
  match o with
  | 0x0#4 =>
    match x, y, n with
    | 0x0#4, 0xC#4, n => some (.scd n)
    | 0x0#4, 0xD#4, n => some (.scu n)
    | 0x0#4, 0xE#4, 0x0#4 => some .cls
    | 0x0#4, 0xE#4, 0xE#4 => some .ret
    | 0x0#4, 0xF#4, 0xB#4 => some .scr
    | 0x0#4, 0xF#4, 0xC#4 => some .scl
    | 0x0#4, 0xF#4, 0xD#4 => some .exit
    | 0x0#4, 0xF#4, 0xE#4 => some .low
    | 0x0#4, 0xF#4, 0xF#4 => some .high
    | _, _, _ => none
  | 0x1#4 => some (.jp (joinNNN x y n))
  | 0x2#4 => some (.call (joinNNN x y n))
  | 0x3#4 => some (.seImm x (joinNN y n))
  | 0x4#4 => some (.sneImm x (joinNN y n))
  | 0x5#4 =>
    match n with
    | 0x0#4 => some (.seReg x y)
    | 0x2#4 => some (.saveRange x y)
    | 0x3#4 => some (.loadRange x y)
    | _ => none
  | 0x6#4 => some (.ldImm x (joinNN y n))
  | 0x7#4 => some (.addImm x (joinNN y n))
  | 0x8#4 =>
    match n with
    | 0x0#4 => some (.ldReg x y)
    | 0x1#4 => some (.or x y)
    | 0x2#4 => some (.and x y)
    | 0x3#4 => some (.xor x y)
    | 0x4#4 => some (.addReg x y)
    | 0x5#4 => some (.sub x y)
    | 0x6#4 => some (.shr x y)
    | 0x7#4 => some (.subn x y)
    | 0xE#4 => some (.shl x y)
    | _ => none
  | 0x9#4 =>
    match n with
    | 0x0#4 => some (.sneReg x y)
    | _ => none
  | 0xA#4 => some (.ldI (joinNNN x y n))
  | 0xB#4 => some (.jpOff (joinNNN x y n))
  | 0xC#4 => some (.rnd x (joinNN y n))
  | 0xD#4 =>
    match n with
    | 0x0#4 => some (.drw16 x y)
    | n => some (.drw x y n)
  | 0xE#4 =>
    match y, n with
    | 0x9#4, 0xE#4 => some (.skp x)
    | 0xA#4, 0x1#4 => some (.sknp x)
    | _, _ => none
  | 0xF#4 =>
    match y, n with
    | 0x0#4, 0x0#4 => if x = 0#4 then some (.ldILong nnnn) else none
    | 0x0#4, 0x1#4 => some (.plane x)
    | 0x0#4, 0x2#4 => if x = 0#4 then some .audio else none
    | 0x0#4, 0x7#4 => some (.ldVxDt x)
    | 0x0#4, 0xA#4 => some (.ldVxK x)
    | 0x1#4, 0x5#4 => some (.ldDt x)
    | 0x1#4, 0x8#4 => some (.ldSt x)
    | 0x1#4, 0xE#4 => some (.addI x)
    | 0x2#4, 0x9#4 => some (.ldF x)
    | 0x3#4, 0x0#4 => some (.ldHf x)
    | 0x3#4, 0x3#4 => some (.bcd x)
    | 0x3#4, 0xA#4 => some (.ldPitch x)
    | 0x5#4, 0x5#4 => some (.store x)
    | 0x6#4, 0x5#4 => some (.load x)
    | 0x7#4, 0x5#4 => some (.saveFlags x)
    | 0x8#4, 0x5#4 => some (.loadFlags x)
    | _, _ => none
  | _ => none

/-- The opcode row of a word, whatever the Variant. -/
def decodeRow (w nnnn : Word) : Option Instr :=
  decodeFields (fieldO w) (fieldX w) (fieldY w) (fieldN w) nnnn

/-- decode(w, VARIANT) (R55): the row of `w`, provided R54 makes it legal; `none` is the spec's `Illegal`. `nnnn` is
the operand of F000 NNNN and matters to no other word. -/
def decode (v : Variant) (w nnnn : Word) : Option Instr :=
  (decodeRow w nnnn).filter (Instr.legalIn v)

/-- An instruction is 4 bytes exactly when w = 0xF000 and VARIANT = XOCHIP (R58). -/
def isLong (v : Variant) (w : Word) : Bool := onlyXochip v && w == 0xF000#16

/-- Why a byte sequence holds no instruction. -/
inductive Reject where
  /-- The word decodes to `Illegal` in the Variant (R57). -/
  | illegal (w : Word)
  /-- The bytes end before the instruction does. -/
  | truncated
  deriving DecidableEq, Repr

/-- The instruction at the head of a byte sequence and the bytes after it (R39, R51, R55, R58). -/
def decodeBytes (v : Variant) : List Byte → Except Reject (Instr × List Byte)
  | b0 :: b1 :: rest =>
    match decode v (wordOfBytes b0 b1) 0#16 with
    | none => .error (.illegal (wordOfBytes b0 b1))
    | some i =>
      if isLong v (wordOfBytes b0 b1) then
        match rest with
        | b2 :: b3 :: rest' => .ok (.ldILong (wordOfBytes b2 b3), rest')
        | _ => .error .truncated
      else .ok (i, rest)
  | _ => .error .truncated

/-! ### The encoder -/

/-- The high nibble of an 8-bit immediate. -/
def hiNN (nn : Byte) : Nibble := nn.extractLsb' 4 4

/-- The low nibble of an 8-bit immediate. -/
def loNN (nn : Byte) : Nibble := nn.extractLsb' 0 4

/-- A word whose low 12 bits are an address. -/
def packNNN (o : Nibble) (nnn : Addr12) : Word :=
  pack o (nnn.extractLsb' 8 4) (nnn.extractLsb' 4 4) (nnn.extractLsb' 0 4)

/-- A word with a register and an 8-bit immediate. -/
def packXNN (o : Nibble) (x : RegIdx) (nn : Byte) : Word := pack o x (hiNN nn) (loNN nn)

/-- The first word of an instruction (R50, R53). -/
def firstWord : Instr → Word
  | .cls => 0x00E0#16
  | .ret => 0x00EE#16
  | .scd n => pack 0x0#4 0x0#4 0xC#4 n
  | .scu n => pack 0x0#4 0x0#4 0xD#4 n
  | .scr => 0x00FB#16
  | .scl => 0x00FC#16
  | .exit => 0x00FD#16
  | .low => 0x00FE#16
  | .high => 0x00FF#16
  | .jp nnn => packNNN 0x1#4 nnn
  | .call nnn => packNNN 0x2#4 nnn
  | .seImm x nn => packXNN 0x3#4 x nn
  | .sneImm x nn => packXNN 0x4#4 x nn
  | .seReg x y => pack 0x5#4 x y 0x0#4
  | .saveRange x y => pack 0x5#4 x y 0x2#4
  | .loadRange x y => pack 0x5#4 x y 0x3#4
  | .ldImm x nn => packXNN 0x6#4 x nn
  | .addImm x nn => packXNN 0x7#4 x nn
  | .ldReg x y => pack 0x8#4 x y 0x0#4
  | .or x y => pack 0x8#4 x y 0x1#4
  | .and x y => pack 0x8#4 x y 0x2#4
  | .xor x y => pack 0x8#4 x y 0x3#4
  | .addReg x y => pack 0x8#4 x y 0x4#4
  | .sub x y => pack 0x8#4 x y 0x5#4
  | .shr x y => pack 0x8#4 x y 0x6#4
  | .subn x y => pack 0x8#4 x y 0x7#4
  | .shl x y => pack 0x8#4 x y 0xE#4
  | .sneReg x y => pack 0x9#4 x y 0x0#4
  | .ldI nnn => packNNN 0xA#4 nnn
  | .jpOff nnn => packNNN 0xB#4 nnn
  | .rnd x nn => packXNN 0xC#4 x nn
  | .drw x y n => pack 0xD#4 x y n
  | .drw16 x y => pack 0xD#4 x y 0x0#4
  | .skp x => pack 0xE#4 x 0x9#4 0xE#4
  | .sknp x => pack 0xE#4 x 0xA#4 0x1#4
  | .ldILong _ => 0xF000#16
  | .plane n => pack 0xF#4 n 0x0#4 0x1#4
  | .audio => 0xF002#16
  | .ldVxDt x => pack 0xF#4 x 0x0#4 0x7#4
  | .ldVxK x => pack 0xF#4 x 0x0#4 0xA#4
  | .ldDt x => pack 0xF#4 x 0x1#4 0x5#4
  | .ldSt x => pack 0xF#4 x 0x1#4 0x8#4
  | .addI x => pack 0xF#4 x 0x1#4 0xE#4
  | .ldF x => pack 0xF#4 x 0x2#4 0x9#4
  | .ldHf x => pack 0xF#4 x 0x3#4 0x0#4
  | .bcd x => pack 0xF#4 x 0x3#4 0x3#4
  | .ldPitch x => pack 0xF#4 x 0x3#4 0xA#4
  | .store x => pack 0xF#4 x 0x5#4 0x5#4
  | .load x => pack 0xF#4 x 0x6#4 0x5#4
  | .saveFlags x => pack 0xF#4 x 0x7#4 0x5#4
  | .loadFlags x => pack 0xF#4 x 0x8#4 0x5#4

/-- The words after the first: F000 NNNN has one, every other instruction none (R51). -/
def laterWords : Instr → List Word
  | .ldILong nnnn => [nnnn]
  | _ => []

/-- The words of an instruction. -/
def encode (i : Instr) : List Word := firstWord i :: laterWords i

/-- The two bytes of a word in the order memory holds them: bits 15:8 at the lower address (R39). -/
def bytesOfWord (w : Word) : List Byte := [w.extractLsb' 8 8, w.extractLsb' 0 8]

/-- The bytes of an instruction in the order memory holds them. -/
def encodeBytes (i : Instr) : List Byte := (encode i).flatMap bytesOfWord

/-! ### The host's numbering of an opcode row's bits -/

/-- The bytes of the longest instruction (two words) whose bits are `w`: bit 0 is the least significant bit of the
first word, the second word's bits count on from bit 16, and the bits from `nbits` up are zero. -/
def tableBytes (nbits w : Nat) : List Byte :=
  bytesOfWord (BitVec.ofNat 16 (w % 2 ^ nbits)) ++ bytesOfWord (BitVec.ofNat 16 (w % 2 ^ nbits / 2 ^ 16))

/-- The instruction the decoder reads from an opcode row's bits, in the Variant where every row is legal (log 6). -/
def decodeTableWord (nbits w : Nat) : Option Instr :=
  match decodeBytes .xochip (tableBytes nbits w) with
  | .ok (i, _) => some i
  | .error _ => none

end Sys2Proof
end

