-- ==== Sys2Proof/Machine/State.lean ====
section
/-! DEFINITION. The machine's state (10_state), all of it, as plain data; the state `new` creates (70_reset R157); and
the ways a call can end without a next state. -/

namespace Sys2Proof.Machine

/-- RES (R24): which resolution is selected. -/
inductive Resolution where
  /-- RES = 0: 64 columns, 32 rows. -/
  | lores
  /-- RES = 1: 128 columns, 64 rows. -/
  | hires
  deriving DecidableEq, Repr

/-- PENDING (R31): the wait the machine is in. -/
inductive Pending where
  | none
  /-- An FX0A waits for a key, to be written to V[r]. -/
  | keyWait (r : RegIdx)
  /-- A draw waits for the next frame boundary. -/
  | vblankWait
  deriving DecidableEq, Repr

/-- The run-time faults an instruction raises (R143). -/
inductive FaultKind where
  | addressFault
  | illegalInstruction
  | stackFault
  deriving DecidableEq, Repr

/-- The fault record {kind, pc, word, addr} of R147. -/
structure FaultRecord where
  kind : FaultKind
  /-- The address of the faulting instruction. -/
  pc   : Word
  /-- Its word; absent when the fetch of the first word faulted. -/
  word : Option Word
  /-- The offending address, for an AddressFault. It can lie past 0xFFFF (R68). -/
  addr : Option Nat
  deriving DecidableEq, Repr

/-- One plane: 64 rows, row 0 on top, of 128 one-bit columns; bit x of a row is column x (R26, R111). -/
abbrev Plane := Vector (BitVec 128) 64

/-- The state of the machine. -/
structure State where
  /-- VARIANT (R20), read-only. -/
  variant   : Variant
  /-- PROFILE (R21), read-only. -/
  profile   : Byte
  /-- The OPEN sizes (R6), read-only. -/
  params    : Params
  /-- V0 to VF (R14); VF is also the flag register (R15). -/
  v         : Vector Byte 16
  /-- I, the index register (R17). -/
  index     : Word
  /-- PC (R16). -/
  pc        : Word
  /-- The call stack (R18), the newest return address first; SP is its length. -/
  stack     : List Word
  /-- DT, the delay timer (R19). -/
  dt        : Byte
  /-- ST, the sound timer (R19). -/
  st        : Byte
  /-- RES (R24). -/
  res       : Resolution
  /-- PLANE_MASK (R25). -/
  planeMask : BitVec 4
  /-- Plane[0..3] (R26). -/
  planes    : Vector Plane 4
  /-- MEM (R27): the bytes that differ from the power-on image, by rising address. -/
  mem       : List Host.Cell
  /-- RPL (R28). -/
  rpl       : Vector Byte 16
  /-- PATTERN (R29). -/
  pattern   : Vector Byte 16
  /-- PITCH (R29). -/
  pitch     : Byte
  /-- KEYS (R30): bit k is set while key k is pressed. -/
  keys      : BitVec 16
  /-- PENDING (R31). -/
  pending   : Pending
  /-- HALTED (R32). -/
  halted    : Bool
  /-- FAULT (R33). -/
  fault     : Option FaultRecord
  /-- LOADED (R34). -/
  loaded    : Bool
  /-- STARTED (R34). -/
  started   : Bool
  /-- The model's own: how many free bytes rand8 CXNN has drawn (log 4). -/
  draws     : Nat
  deriving DecidableEq, Repr

/-- Host.Outcome.fault: the host-call errors of R143. `new` and `load` answer them (Machine/HostCalls.lean); no step
and no instruction does, because a run-time fault is a next state that holds its record (R149, log 5). -/
inductive Fault where
  /-- `new` answers it for a parameter out of range (R156). Safe: the spec's own answer, and no machine is made. -/
  | invalidProfile
  /-- Nothing answers it (R113, R151, C1); it is here because R143 names it. Safe. -/
  | unsupportedMode
  /-- `load` answers it for a program past the end of memory (R160). Safe: the spec's own answer. -/
  | programTooLarge
  deriving DecidableEq, Repr

/-- Host.Outcome.refused: no transition. -/
inductive Refusal where
  /-- The instruction has no meaning in this model. No arm of exec answers it. Safe. -/
  | notModelled (mnemonic : String)
  /-- `load` answers it when LOADED or STARTED is set: a call outside the protocol, for which the machine has no
  transition (R160, U12, log 8). Safe. -/
  | loadOutsideProtocol
  deriving DecidableEq, Repr

/-- The state a valid `new(variant, profile)` creates (R157) with the fonts of Config. MEM is the power-on image: no
cell differs from it. -/
def State.construct (variant : Variant) (profile : Byte) (params : Params) : State :=
  { variant, profile, params
    v := Vector.replicate 16 0#8
    index := 0x0000#16
    pc := 0x200#16
    stack := []
    dt := 0#8
    st := 0#8
    res := .lores
    planeMask := 0x1#4
    planes := Vector.replicate 4 (Vector.replicate 64 0#128)
    mem := []
    rpl := Vector.replicate 16 0#8
    pattern := Vector.replicate 16 0#8
    pitch := 64#8
    keys := 0#16
    pending := .none
    halted := false
    fault := none
    loaded := false
    started := false
    draws := 0 }

/-- The machine right after reset: reset is construction (R159). The arguments of `new` are XOCHIP, where every
opcode row is legal, and the XO-CHIP preset (DESIGN CHOICE, unsafe for claims about this one state: log 1). -/
def State.reset : State := State.construct .xochip Profile.xo Params.default

end Sys2Proof.Machine
end

