-- ==== Sys2Proof/Machine/Ops.lean ====
section
/-! DEFINITION. The shared operations: sizes, memory, registers, the stack, taking a fault, the commit, the skip. -/

namespace Sys2Proof.Machine

/-! ### Sizes that the Variant and the parameters fix (R6) -/

/-- MEM_SIZE (R6, R37). -/
def memSizeOf (v : Variant) (p : Params) : Nat :=
  match v with
  | .chip8 => 4096
  | .schip => 4096
  | .xochip => p.xoMemSize

/-- MEM_SIZE of this machine. -/
def memSize (s : State) : Nat := memSizeOf s.variant s.params

/-- PLANE_CEILING (R6, D25). -/
def planeCeiling : Variant → Nat
  | .chip8 => 1
  | .schip => 1
  | .xochip => 4

/-- RES_CEILING (R6, D25). -/
def resCeiling : Variant → Resolution
  | .chip8 => .lores
  | .schip => .hires
  | .xochip => .hires

/-- FONT_SMALL_BASE (R6, D6). -/
def fontSmallBase : Nat := 0x000

/-- FONT_BIG_BASE (R6, D6). -/
def fontBigBase : Nat := 0x050

/-- LOAD_ADDR, where `load` writes a program (R6, R160). -/
def loadAddr : Nat := 0x200

/-! ### Memory (20_memory)

A memory is the list of the cells that differ from the power-on image, by strictly rising address. -/

/-- What an unlisted address reads as: the reset contents of MEM (R43, R157), with the fonts of Config (log 2). -/
def Memory.unlisted (a : Nat) : Byte :=
  if a < 0x050 then Config.fontSmall.toList.getD (a - fontSmallBase) 0#8
  else if a < 0x0F0 then Config.fontBig.toList.getD (a - fontBigBase) 0#8
  else 0#8

/-- The byte listed at an address. -/
def Memory.lookup : List Host.Cell → Nat → Option Byte
  | [], _ => none
  | c :: m, a => if c.1 = a then some c.2 else Memory.lookup m a

/-- Reading one byte. -/
def Memory.read (m : List Host.Cell) (a : Nat) : Byte :=
  (Memory.lookup m a).getD (Memory.unlisted a)

/-- Lists `b` at `a`, in place of what was listed there. -/
def Memory.put : List Host.Cell → Nat → Byte → List Host.Cell
  | [], a, b => [(a, b)]
  | c :: m, a, b =>
    if a < c.1 then (a, b) :: c :: m
    else if a = c.1 then (a, b) :: m
    else c :: Memory.put m a b

/-- Unlists an address. -/
def Memory.erase : List Host.Cell → Nat → List Host.Cell
  | [], _ => []
  | c :: m, a => if c.1 = a then m else c :: Memory.erase m a

/-- Writing one byte: a cell equal to the power-on image is not listed. -/
def Memory.write (m : List Host.Cell) (a : Nat) (b : Byte) : List Host.Cell :=
  if b = Memory.unlisted a then Memory.erase m a else Memory.put m a b

/-- Every listed address lies above `a`, and they rise strictly. -/
def Memory.risesFrom : Nat → List Host.Cell → Bool
  | _, [] => true
  | a, c :: m => a < c.1 && Memory.risesFrom c.1 m

/-- The listed addresses rise strictly. -/
def Memory.rises : List Host.Cell → Bool
  | [] => true
  | c :: m => Memory.risesFrom c.1 m

/-- The canonical form: strictly rising addresses, and no cell equal to what its address reads as unlisted. -/
def Memory.wf (m : List Host.Cell) : Bool :=
  Memory.rises m && m.all fun c => c.2 != Memory.unlisted c.1

/-- MEM[a], for an address below MEM_SIZE (the callers check the range first). -/
def readByte (s : State) (a : Nat) : Byte := Memory.read s.mem a

/-- MEM[a] <- b, for an address below MEM_SIZE (the callers check the range first). -/
def writeByte (s : State) (a : Nat) (b : Byte) : State :=
  { s with mem := Memory.write s.mem a b }

/-- Writes bytes at rising addresses from `a` (R48). -/
def writeRun (s : State) (a : Nat) : List Byte → State
  | [] => s
  | b :: bs => writeRun (writeByte s a b) (a + 1) bs

/-- The big-endian word at `a` (R39). -/
def readWord (s : State) (a : Nat) : Word := wordOfBytes (readByte s a) (readByte s (a + 1))

/-- CheckRange(addr, n) (R9): the lowest of the n addresses from `addr` that is not below MEM_SIZE, if any. -/
def checkRange (s : State) (addr n : Nat) : Option Nat :=
  if n = 0 ∨ addr + n ≤ memSize s then none else some (max addr (memSize s))

/-- MemRead(addr, 2) (R9): the word, or the address that faults. -/
def fetchWord (s : State) (addr : Nat) : Except Nat Word :=
  match checkRange s addr 2 with
  | some bad => .error bad
  | none => .ok (readWord s addr)

/-! ### Registers -/

/-- V[x] (R8). -/
def getV (s : State) (x : RegIdx) : Byte := s.v[x.toNat]'x.isLt

/-- V[x] <- b (R8). -/
def setV (s : State) (x : RegIdx) (b : Byte) : State := { s with v := s.v.set x.toNat b x.isLt }

/-- VF <- b (R15). -/
def setVF (s : State) (b : Byte) : State := setV s 0xF#4 b

/-- RPL[z] (R28). -/
def getRpl (s : State) (z : RegIdx) : Byte := s.rpl[z.toNat]'z.isLt

/-- RPL[z] <- b (R28). -/
def setRpl (s : State) (z : RegIdx) (b : Byte) : State := { s with rpl := s.rpl.set z.toNat b z.isLt }

/-- KEYS[k] (R30). -/
def keyDown (s : State) (k : Nibble) : Bool := s.keys.getLsbD k.toNat

/-- SP, the depth of the stack (R18). -/
def sp (s : State) : Nat := s.stack.length

/-! ### Faults (60_exceptions) -/

/-- Taking a run-time fault (R10, R147, R149): FAULT <- {kind, PC, word, addr}, and nothing else changes. `s` is the
state before the instruction, so its writes are discarded and PC stays at the instruction. -/
def raise (s : State) (kind : FaultKind) (word : Option Word) (addr : Option Nat) : State :=
  { s with fault := some { kind, pc := s.pc, word, addr } }

/-- The result of an instruction that raises AddressFault(addr) (R144). -/
def addressFault (i : Instr) (s : State) (addr : Nat) : Host.Outcome State Fault Refusal :=
  .next (raise s .addressFault (some (firstWord i)) (some addr))

/-- The result of an instruction that raises StackFault (R146). -/
def stackFault (i : Instr) (s : State) : Host.Outcome State Fault Refusal :=
  .next (raise s .stackFault (some (firstWord i)) none)

/-- The result of an instruction that the Variant does not have (R145). -/
def illegalInstruction (i : Instr) (s : State) : Host.Outcome State Fault Refusal :=
  .next (raise s .illegalInstruction (some (firstWord i)) none)

/-- An instruction of an extension: IllegalInstruction where R54 does not make it legal, else its effect. -/
def requireLegal (i : Instr) (s : State) (effect : Host.Outcome State Fault Refusal) :
    Host.Outcome State Fault Refusal :=
  if i.legalIn s.variant then effect else illegalInstruction i s

/-- CheckRange before an instruction's data accesses (R42): AddressFault, or the instruction's effect. -/
def requireRange (i : Instr) (s : State) (addr n : Nat) (effect : Host.Outcome State Fault Refusal) :
    Host.Outcome State Fault Refusal :=
  match checkRange s addr n with
  | some bad => addressFault i s bad
  | none => effect

/-! ### Program counter -/

/-- pc after the pre-increment, a + 2, unbounded (R66). -/
def nextPc (s : State) : Nat := s.pc.toNat + 2

/-- The commit (R68, R69): the writes in `s'` take effect together and PC <- pc; a final pc past 0xFFFF raises
AddressFault(pc) instead. `s` is the state before the instruction. -/
def commit (i : Instr) (s s' : State) (pc : Nat) : Host.Outcome State Fault Refusal :=
  if 0x10000 ≤ pc then addressFault i s pc else .next { s' with pc := BitVec.ofNat 16 pc }

/-- The commit of an instruction that goes on at a + 2. -/
def advance (i : Instr) (s s' : State) : Host.Outcome State Fault Refusal := commit i s s' (nextPc s)

/-- The final pc of a taken Skip() (R75): past the next instruction, 4 bytes on when that is F000 NNNN in XOCHIP. -/
def skipPc (s : State) : Nat :=
  if s.variant = .xochip ∧ nextPc s + 1 < memSize s ∧ readWord s (nextPc s) = 0xF000#16 then nextPc s + 4
  else nextPc s + 2

/-- A conditional skip: `if cond: Skip()`. -/
def skipIf (i : Instr) (s : State) (cond : Bool) : Host.Outcome State Fault Refusal :=
  commit i s s (if cond then skipPc s else nextPc s)

end Sys2Proof.Machine
end

