-- ==== Sys2Proof/Machine/Operands.lean ====
section
/-! DEFINITION. The quirks multiplexer (10_state R21, 40_execute_cycle R71) and the operands that quirks, registers or
the plane mask select. -/

namespace Sys2Proof.Machine

/-! ### PROFILE's fields (R21) -/

/-- PROFILE bit 0. -/
def shiftQuirk (s : State) : ShiftQuirk := if s.profile.getLsbD 0 then .vxInPlace else .vySource

/-- PROFILE bit 1. -/
def loadStoreQuirk (s : State) : LoadStoreQuirk := if s.profile.getLsbD 1 then .unchanged else .increment

/-- PROFILE bit 2. -/
def jumpQuirk (s : State) : JumpQuirk := if s.profile.getLsbD 2 then .vx else .v0

/-- PROFILE bit 3. -/
def logicQuirk (s : State) : LogicQuirk := if s.profile.getLsbD 3 then .vfCleared else .vfKept

/-- PROFILE bit 4. -/
def clipQuirk (s : State) : ClipQuirk := if s.profile.getLsbD 4 then .clip else .wrap

/-- PROFILE bit 5. -/
def vblankQuirk (s : State) : VblankQuirk := if s.profile.getLsbD 5 then .wait else .noWait

/-- PROFILE bit 6. -/
def keyEdge (s : State) : KeyEdge := if s.profile.getLsbD 6 then .release else .press

/-- PROFILE bit 7. -/
def collisionQuirk (s : State) : CollisionQuirk := if s.profile.getLsbD 7 then .rows else .flag

/-! ### Operands -/

/-- The value 8XY6 and 8XYE shift (R96, R97). -/
def shiftSource (s : State) (x y : RegIdx) : Byte :=
  match shiftQuirk s with
  | .vySource => getV s y
  | .vxInPlace => getV s x

/-- The offset BNNN adds (R79): V0, or V[x] with x = nnn[11:8]. -/
def jumpOffset (s : State) (nnn : Addr12) : Byte :=
  match jumpQuirk s with
  | .v0 => getV s 0x0#4
  | .vx => getV s (nnn.extractLsb' 8 4)

/-- The key or glyph a register selects: its low nibble (R102, R138, D20). -/
def lowNibble (b : Byte) : Nibble := b.extractLsb' 0 4

/-- The address of the small glyph of V[x] (R102). -/
def smallGlyph (s : State) (x : RegIdx) : Word :=
  BitVec.ofNat 16 (fontSmallBase + 5 * (lowNibble (getV s x)).toNat)

/-- The address of the big glyph of V[x] (R103). -/
def bigGlyph (s : State) (x : RegIdx) : Word :=
  BitVec.ofNat 16 (fontBigBase + 10 * (lowNibble (getV s x)).toNat)

/-- I after FX55 and FX65 have copied V0..V[x] (R105, R106): advanced by x + 1 modulo 2^16, or kept. -/
def indexAfterRun (s : State) (x : RegIdx) : Word :=
  match loadStoreQuirk s with
  | .increment => s.index + BitVec.ofNat 16 (x.toNat + 1)
  | .unchanged => s.index

/-- The registers V0..V[x], in order. -/
def runTo (x : RegIdx) : List RegIdx := (List.range (x.toNat + 1)).map (BitVec.ofNat 4)

/-- |x - y|, how far apart the ends of a register range are (R107, R108). -/
def rangeDistance (x y : RegIdx) : Nat := if x ≤ y then y.toNat - x.toNat else x.toNat - y.toNat

/-- The k-th register of the range from V[x] to V[y], ascending or descending (R107, R108, D46). -/
def rangeReg (x y : RegIdx) (k : Nat) : RegIdx :=
  if x ≤ y then BitVec.ofNat 4 (x.toNat + k) else BitVec.ofNat 4 (x.toNat - k)

/-- The registers from V[x] to V[y], in order. -/
def rangeRegs (x y : RegIdx) : List RegIdx := (List.range (rangeDistance x y + 1)).map (rangeReg x y)

/-- The three decimal digits of V[x], hundreds first (R104). -/
def bcdDigits (b : Byte) : List Byte :=
  [BitVec.ofNat 8 (b.toNat / 100), BitVec.ofNat 8 (b.toNat / 10 % 10), BitVec.ofNat 8 (b.toNat % 10)]

/-- Loads the registers of a list from memory at rising addresses from `a` (R48). -/
def loadRegs (s : State) (a : Nat) : List RegIdx → State
  | [] => s
  | x :: xs => loadRegs (setV s x (readByte s a)) (a + 1) xs

/-- The registers of a list, as bytes. -/
def regBytes (s : State) (xs : List RegIdx) : List Byte := xs.map (getV s)

/-- RPL[z] <- V[z] for the registers of a list (R109). -/
def saveRpl (s : State) : List RegIdx → State
  | [] => s
  | z :: zs => saveRpl (setRpl s z (getV s z)) zs

/-- V[z] <- RPL[z] for the registers of a list (R110). -/
def loadRpl (s : State) : List RegIdx → State
  | [] => s
  | z :: zs => loadRpl (setV s z (getRpl s z)) zs

/-- P, how many planes PLANE_MASK selects (R116). -/
def selectedPlanes (s : State) : Nat := (List.range 4).countP fun k => s.planeMask.getLsbD k

/-- How many selected planes come before plane k: the place of its block of sprite bytes (R116, D41). -/
def selectedBelow (s : State) (k : Nat) : Nat := (List.range k).countP fun j => s.planeMask.getLsbD j

end Sys2Proof.Machine
end

