-- ==== Sys2Proof/Machine/Flags.lean ====
section
/-! DEFINITION. The values instructions leave in VF (10_state R15, 42_alu R85 and R86, 44_display R118). -/

namespace Sys2Proof.Machine

/-- A flag as the value of VF. -/
def flagByte (b : Bool) : Byte := if b then 1#8 else 0#8

/-- Carry out of an add (R85, R93). -/
def carryFlag (a b : Byte) : Byte := flagByte (255 < a.toNat + b.toNat)

/-- "No borrow" out of minuend - subtrahend (R85, R94, R95). -/
def noBorrowFlag (minuend subtrahend : Byte) : Byte := flagByte (subtrahend.toNat ≤ minuend.toNat)

/-- The bit 8XY6 shifts out (R96). -/
def rightShiftFlag (b : Byte) : Byte := flagByte (b.getLsbD 0)

/-- The bit 8XYE shifts out (R97). -/
def leftShiftFlag (b : Byte) : Byte := flagByte (b.getLsbD 7)

/-- The result to V[x], then the flag to VF, which stays when x = 0xF (R86, D15). -/
def setResultFlag (s : State) (x : RegIdx) (result flag : Byte) : State := setVF (setV s x result) flag

/-- The result of OR, AND, XOR to V[x], then VF cleared under the logic quirk (R90). -/
def setLogicResult (s : State) (x : RegIdx) (result : Byte) : State :=
  match logicQuirk s with
  | .vfCleared => setVF (setV s x result) 0#8
  | .vfKept => setV s x result

/-- VF from the number of collided rows (R118). -/
def collisionFlag (s : State) (rows : Nat) : Byte :=
  match collisionQuirk s with
  | .flag => flagByte (0 < rows)
  | .rows => BitVec.ofNat 8 rows

end Sys2Proof.Machine
end

