-- ==== Sys2Proof/Machine/Alu.lean ====
section
/-! DEFINITION. The ALU (42_alu): load and add immediate, the 8XYn operations, random. -/

namespace Sys2Proof.Machine

/-- LD_IMM (R87): V[x] <- nn. -/
def execLdImm (x : RegIdx) (nn : Byte) (s : State) : Host.Outcome State Fault Refusal :=
  advance (.ldImm x nn) s (setV s x nn)

/-- ADD_IMM (R88): V[x] <- V[x] + nn modulo 256; no flag. -/
def execAddImm (x : RegIdx) (nn : Byte) (s : State) : Host.Outcome State Fault Refusal :=
  advance (.addImm x nn) s (setV s x (getV s x + nn))

/-- LD_REG (R89): V[x] <- V[y]. -/
def execLdReg (x y : RegIdx) (s : State) : Host.Outcome State Fault Refusal :=
  advance (.ldReg x y) s (setV s x (getV s y))

/-- OR (R90). -/
def execOr (x y : RegIdx) (s : State) : Host.Outcome State Fault Refusal :=
  advance (.or x y) s (setLogicResult s x (getV s x ||| getV s y))

/-- AND (R91). -/
def execAnd (x y : RegIdx) (s : State) : Host.Outcome State Fault Refusal :=
  advance (.and x y) s (setLogicResult s x (getV s x &&& getV s y))

/-- XOR (R92). -/
def execXor (x y : RegIdx) (s : State) : Host.Outcome State Fault Refusal :=
  advance (.xor x y) s (setLogicResult s x (getV s x ^^^ getV s y))

/-- ADD_REG (R93): VF <- carry. -/
def execAddReg (x y : RegIdx) (s : State) : Host.Outcome State Fault Refusal :=
  advance (.addReg x y) s (setResultFlag s x (getV s x + getV s y) (carryFlag (getV s x) (getV s y)))

/-- SUB (R94): V[x] <- V[x] - V[y], VF <- no borrow. -/
def execSub (x y : RegIdx) (s : State) : Host.Outcome State Fault Refusal :=
  advance (.sub x y) s (setResultFlag s x (getV s x - getV s y) (noBorrowFlag (getV s x) (getV s y)))

/-- SUBN (R95): V[x] <- V[y] - V[x], VF <- no borrow. -/
def execSubn (x y : RegIdx) (s : State) : Host.Outcome State Fault Refusal :=
  advance (.subn x y) s (setResultFlag s x (getV s y - getV s x) (noBorrowFlag (getV s y) (getV s x)))

/-- SHR (R96): V[x] <- source >> 1, VF <- the bit shifted out. -/
def execShr (x y : RegIdx) (s : State) : Host.Outcome State Fault Refusal :=
  advance (.shr x y) s (setResultFlag s x (shiftSource s x y >>> 1) (rightShiftFlag (shiftSource s x y)))

/-- SHL (R97): V[x] <- source << 1 modulo 256, VF <- the bit shifted out. -/
def execShl (x y : RegIdx) (s : State) : Host.Outcome State Fault Refusal :=
  advance (.shl x y) s (setResultFlag s x (shiftSource s x y <<< 1) (leftShiftFlag (shiftSource s x y)))

/-- RND (R98): V[x] <- rand8 AND nn, where rand8 is the free byte of this draw (log 4). -/
def execRnd (x : RegIdx) (nn : Byte) (s : State) : Host.Outcome State Fault Refusal :=
  advance (.rnd x nn) s { setV s x (Config.rand8 s.draws &&& nn) with draws := s.draws + 1 }

end Sys2Proof.Machine
end

