-- ==== Sys2Proof/Machine/Control.lean ====
section
/-! DEFINITION. Control transfer (41_control): jumps, call and return, skips, exit. -/

namespace Sys2Proof.Machine

/-- JP (R76): pc <- nnn. -/
def execJp (nnn : Addr12) (s : State) : Host.Outcome State Fault Refusal :=
  commit (.jp nnn) s s nnn.toNat

/-- CALL (R77, R73): push a + 2, pc <- nnn; StackFault when the stack is full. The pushed address has 16 bits. -/
def execCall (nnn : Addr12) (s : State) : Host.Outcome State Fault Refusal :=
  if sp s = s.params.stackDepth then stackFault (.call nnn) s
  else commit (.call nnn) s { s with stack := BitVec.ofNat 16 (nextPc s) :: s.stack } nnn.toNat

/-- RET (R78, R74): pc <- the popped address; StackFault when the stack is empty. -/
def execRet (s : State) : Host.Outcome State Fault Refusal :=
  match s.stack with
  | [] => stackFault .ret s
  | top :: rest => commit .ret s { s with stack := rest } top.toNat

/-- JP_OFF (R79): pc <- nnn + V0 or V[x], unbounded. -/
def execJpOff (nnn : Addr12) (s : State) : Host.Outcome State Fault Refusal :=
  commit (.jpOff nnn) s s (nnn.toNat + (jumpOffset s nnn).toNat)

/-- SE_IMM (R80): skip if V[x] = nn. -/
def execSeImm (x : RegIdx) (nn : Byte) (s : State) : Host.Outcome State Fault Refusal :=
  skipIf (.seImm x nn) s (getV s x == nn)

/-- SNE_IMM (R81): skip if V[x] ≠ nn. -/
def execSneImm (x : RegIdx) (nn : Byte) (s : State) : Host.Outcome State Fault Refusal :=
  skipIf (.sneImm x nn) s (getV s x != nn)

/-- SE_REG (R82): skip if V[x] = V[y]. -/
def execSeReg (x y : RegIdx) (s : State) : Host.Outcome State Fault Refusal :=
  skipIf (.seReg x y) s (getV s x == getV s y)

/-- SNE_REG (R83): skip if V[x] ≠ V[y]. -/
def execSneReg (x y : RegIdx) (s : State) : Host.Outcome State Fault Refusal :=
  skipIf (.sneReg x y) s (getV s x != getV s y)

/-- EXIT (R84): HALTED <- 1. -/
def execExit (s : State) : Host.Outcome State Fault Refusal :=
  requireLegal .exit s (advance .exit s { s with halted := true })

end Sys2Proof.Machine
end

