-- ==== Sys2Proof/Machine/Compositor.lean ====
section
/-! DEFINITION. The display compositor (44_display, sections 1 and 2): geometry, clear, scroll, resolution, sprites,
composition. -/

namespace Sys2Proof.Machine

/-! ### Geometry (R111) -/

/-- W. -/
def width : Resolution → Nat
  | .lores => 64
  | .hires => 128

/-- H. -/
def height : Resolution → Nat
  | .lores => 32
  | .hires => 64

/-- Plane[k][x][y] of one plane; no pixel outside 128 × 64 is set. -/
def Plane.get (p : Plane) (x y : Nat) : Bool :=
  if h : y < 64 then (p[y]'h).getLsbD x else false

/-- Row y of a plane; a row outside it is empty. -/
def Plane.row (p : Plane) (y : Nat) : BitVec 128 :=
  if h : y < 64 then p[y]'h else 0#128

/-- Plane[k][x][y] <- Plane[k][x][y] XOR 1. -/
def Plane.toggle (p : Plane) (x y : Nat) : Plane :=
  if h : y < 64 then p.set y (p[y]'h ^^^ BitVec.twoPow 128 x) h else p

/-- The plane with every pixel 0. -/
def Plane.clear : Plane := Vector.replicate 64 0#128

/-- The columns 0..W-1 of a row. -/
def columnMask (w : Nat) : BitVec 128 := BitVec.ofNat 128 (2 ^ w - 1)

/-- The plane whose row y, inside the W × H window, is `f y`; what lies outside the window stays. -/
def Plane.mapWindow (p : Plane) (r : Resolution) (f : Nat → BitVec 128) : Plane :=
  Vector.ofFn fun y : Fin 64 =>
    if y.val < height r then (f y.val &&& columnMask (width r)) ||| (p[y] &&& ~~~columnMask (width r)) else p[y]

/-- Row y of the window: columns outside it are empty. -/
def Plane.windowRow (p : Plane) (r : Resolution) (y : Nat) : BitVec 128 :=
  if y < height r then Plane.row p y &&& columnMask (width r) else 0#128

/-! ### clear and scroll (R114, R115) -/

/-- Applies an operation to each plane PLANE_MASK selects. -/
def onSelected (s : State) (f : Plane → Plane) : State :=
  { s with planes := Vector.ofFn fun k : Fin 4 => if s.planeMask.getLsbD k then f s.planes[k] else s.planes[k] }

/-- clear() (R114). -/
def clearSelected (s : State) : State := onSelected s fun _ => Plane.clear

/-- P'[x][y] = (y >= n) ? P[x][y-n] : 0. -/
def Plane.scrollDown (r : Resolution) (n : Nat) (p : Plane) : Plane :=
  Plane.mapWindow p r fun y => if n ≤ y then Plane.windowRow p r (y - n) else 0#128

/-- P'[x][y] = (y + n < H) ? P[x][y+n] : 0. -/
def Plane.scrollUp (r : Resolution) (n : Nat) (p : Plane) : Plane :=
  Plane.mapWindow p r fun y => Plane.windowRow p r (y + n)

/-- P'[x][y] = (x >= 4) ? P[x-4][y] : 0. -/
def Plane.scrollRight (r : Resolution) (p : Plane) : Plane :=
  Plane.mapWindow p r fun y => Plane.windowRow p r y <<< 4

/-- P'[x][y] = (x + 4 < W) ? P[x+4][y] : 0. -/
def Plane.scrollLeft (r : Resolution) (p : Plane) : Plane :=
  Plane.mapWindow p r fun y => Plane.windowRow p r y >>> 4

/-! ### set-resolution (R113) -/

/-- set-resolution(mode): all four planes cleared, whatever PLANE_MASK holds, then RES <- mode. -/
def setResolution (s : State) (mode : Resolution) : State :=
  { s with planes := Vector.replicate 4 Plane.clear, res := mode }

/-! ### draw-sprite (R116, R117, R118) -/

/-- A set bit of a sprite that is drawn: the sprite row it belongs to, and its pixel. -/
structure Dot where
  row : Nat
  px  : Nat
  py  : Nat
  deriving DecidableEq, Repr

/-- bit(k, r, c) of the block of sprite bytes at `base`: a row of `cols` columns takes cols/8 bytes, bit 7 of a byte
is its leftmost column (R116). -/
def spriteBit (s : State) (base cols r c : Nat) : Bool :=
  (readByte s (base + r * (cols / 8) + c / 8)).getLsbD (7 - c % 8)

/-- Where the bit at row r, column c lands, if the clip quirk does not drop it (R117). -/
def placeDot (s : State) (x0 y0 r c : Nat) : Option Dot :=
  if clipQuirk s = .clip ∧ (width s.res ≤ x0 + c ∨ height s.res ≤ y0 + r) then none
  else some { row := r, px := (x0 + c) % width s.res, py := (y0 + r) % height s.res }

/-- The dots of one plane's sprite, row by row and column by column (R117). -/
def spriteDots (s : State) (base rows cols x0 y0 : Nat) : List Dot :=
  (List.range rows).flatMap fun r => (List.range cols).filterMap fun c =>
    if spriteBit s base cols r c then placeDot s x0 y0 r c else none

/-- XORs dots into a plane, collecting the rows of those that hit a set pixel (R117). -/
def blit : Plane → List Nat → List Dot → Plane × List Nat
  | p, hits, [] => (p, hits)
  | p, hits, d :: ds =>
    blit (Plane.toggle p d.px d.py) (if Plane.get p d.px d.py then d.row :: hits else hits) ds

/-- A sprite's size: R rows of C columns (R116). -/
structure SpriteSize where
  rows : Nat
  cols : Nat
  deriving DecidableEq, Repr

/-- B, the bytes one plane's sprite takes (R116). -/
def SpriteSize.bytes (z : SpriteSize) : Nat := z.rows * (z.cols / 8)

/-- What draw-sprite does to plane k: the new plane, and the rows that collided in it. -/
def drawPlane (s : State) (z : SpriteSize) (cx cy : Byte) (k : Fin 4) : Plane × List Nat :=
  if s.planeMask.getLsbD k then
    blit s.planes[k] []
      (spriteDots s (s.index.toNat + selectedBelow s k * z.bytes) z.rows z.cols
        (cx.toNat % width s.res) (cy.toNat % height s.res))
  else (s.planes[k], [])

/-- The planes after draw-sprite (R117). -/
def drawnPlanes (s : State) (z : SpriteSize) (cx cy : Byte) : Vector Plane 4 :=
  Vector.ofFn fun k => (drawPlane s z cx cy k).1

/-- ROWS (R118): how many sprite rows collided, each counted once whatever the planes. -/
def collidedRows (s : State) (z : SpriteSize) (cx cy : Byte) : Nat :=
  (List.range z.rows).countP fun r => (List.finRange 4).any fun k => (drawPlane s z cx cy k).2.contains r

/-- The state a draw commits (R119): the planes, VF, and the wait of the vblank quirk (R121). -/
def drawSprite (s : State) (z : SpriteSize) (cx cy : Byte) : State :=
  { setVF s (collisionFlag s (collidedRows s z cx cy)) with
    planes := drawnPlanes s z cx cy
    pending := match vblankQuirk s with
      | .wait => .vblankWait
      | .noWait => s.pending }

/-! ### Composition (R112) -/

/-- idx(x, y): plane k supplies bit k of the palette index. -/
def paletteIndex (s : State) (x y : Nat) : BitVec 4 :=
  BitVec.ofBool (Plane.get s.planes[3] x y) ++ BitVec.ofBool (Plane.get s.planes[2] x y) ++
    BitVec.ofBool (Plane.get s.planes[1] x y) ++ BitVec.ofBool (Plane.get s.planes[0] x y)

end Sys2Proof.Machine
end

