-- ==== Sys2Proof/Machine/Display.lean ====
section
/-! DEFINITION. The display instructions (44_display, sections 3 and 4). -/

namespace Sys2Proof.Machine

/-- DRW (R119): an 8-column sprite of n rows. -/
def execDrw (x y : RegIdx) (n : Nibble) (s : State) : Host.Outcome State Fault Refusal :=
  requireRange (.drw x y n) s s.index.toNat (selectedPlanes s * n.toNat)
    (advance (.drw x y n) s (drawSprite s { rows := n.toNat, cols := 8 } (getV s x) (getV s y)))

/-- DRW16 (R120): a 16 × 16 sprite of 32 bytes per plane. -/
def execDrw16 (x y : RegIdx) (s : State) : Host.Outcome State Fault Refusal :=
  requireLegal (.drw16 x y) s
    (requireRange (.drw16 x y) s s.index.toNat (selectedPlanes s * 32)
      (advance (.drw16 x y) s (drawSprite s { rows := 16, cols := 16 } (getV s x) (getV s y))))

/-- CLS (R122): clear(). -/
def execCls (s : State) : Host.Outcome State Fault Refusal := advance .cls s (clearSelected s)

/-- SCD (R123): scroll(down, n). -/
def execScd (n : Nibble) (s : State) : Host.Outcome State Fault Refusal :=
  requireLegal (.scd n) s (advance (.scd n) s (onSelected s (Plane.scrollDown s.res n.toNat)))

/-- SCU (R124): scroll(up, n). -/
def execScu (n : Nibble) (s : State) : Host.Outcome State Fault Refusal :=
  requireLegal (.scu n) s (advance (.scu n) s (onSelected s (Plane.scrollUp s.res n.toNat)))

/-- SCR (R125): scroll(right, 4). -/
def execScr (s : State) : Host.Outcome State Fault Refusal :=
  requireLegal .scr s (advance .scr s (onSelected s (Plane.scrollRight s.res)))

/-- SCL (R126): scroll(left, 4). -/
def execScl (s : State) : Host.Outcome State Fault Refusal :=
  requireLegal .scl s (advance .scl s (onSelected s (Plane.scrollLeft s.res)))

/-- LOW (R127): set-resolution(lores). -/
def execLow (s : State) : Host.Outcome State Fault Refusal :=
  requireLegal .low s (advance .low s (setResolution s .lores))

/-- HIGH (R128): set-resolution(hires). -/
def execHigh (s : State) : Host.Outcome State Fault Refusal :=
  requireLegal .high s (advance .high s (setResolution s .hires))

/-- PLANE (R129): PLANE_MASK <- n. -/
def execPlane (n : Nibble) (s : State) : Host.Outcome State Fault Refusal :=
  requireLegal (.plane n) s (advance (.plane n) s { s with planeMask := n })

end Sys2Proof.Machine
end

