-- ==== Sys2Proof/Machine/IndexMemory.lean ====
section
/-! DEFINITION. Index register, loads and stores, persistent flags (43_index_memory). -/

namespace Sys2Proof.Machine

/-- LD_I (R99): I <- nnn, zero-extended. -/
def execLdI (nnn : Addr12) (s : State) : Host.Outcome State Fault Refusal :=
  advance (.ldI nnn) s { s with index := nnn.setWidth 16 }

/-- LD_I_LONG (R100): I <- NNNN, pc = a + 4. Its second word was fetched before (R67, Machine/Fetch.lean). -/
def execLdILong (nnnn : Word) (s : State) : Host.Outcome State Fault Refusal :=
  requireLegal (.ldILong nnnn) s (commit (.ldILong nnnn) s { s with index := nnnn } (s.pc.toNat + 4))

/-- ADD_I (R101): I <- I + V[x] modulo 2^16; no flag. -/
def execAddI (x : RegIdx) (s : State) : Host.Outcome State Fault Refusal :=
  advance (.addI x) s { s with index := s.index + (getV s x).setWidth 16 }

/-- LD_F (R102): I <- the small glyph of V[x]. -/
def execLdF (x : RegIdx) (s : State) : Host.Outcome State Fault Refusal :=
  advance (.ldF x) s { s with index := smallGlyph s x }

/-- LD_HF (R103): I <- the big glyph of V[x]. -/
def execLdHf (x : RegIdx) (s : State) : Host.Outcome State Fault Refusal :=
  requireLegal (.ldHf x) s (advance (.ldHf x) s { s with index := bigGlyph s x })

/-- BCD (R104): the three decimal digits of V[x] to I, I+1, I+2. -/
def execBcd (x : RegIdx) (s : State) : Host.Outcome State Fault Refusal :=
  requireRange (.bcd x) s s.index.toNat 3
    (advance (.bcd x) s (writeRun s s.index.toNat (bcdDigits (getV s x))))

/-- STORE (R105): V0..V[x] to memory from I; I advanced under the load/store quirk. -/
def execStore (x : RegIdx) (s : State) : Host.Outcome State Fault Refusal :=
  requireRange (.store x) s s.index.toNat (x.toNat + 1)
    (advance (.store x) s
      { writeRun s s.index.toNat (regBytes s (runTo x)) with index := indexAfterRun s x })

/-- LOAD (R106): V0..V[x] from memory at I; I advanced under the load/store quirk. -/
def execLoad (x : RegIdx) (s : State) : Host.Outcome State Fault Refusal :=
  requireRange (.load x) s s.index.toNat (x.toNat + 1)
    (advance (.load x) s { loadRegs s s.index.toNat (runTo x) with index := indexAfterRun s x })

/-- SAVE_RANGE (R107): V[x]..V[y], in that direction, to memory from I; I unchanged. -/
def execSaveRange (x y : RegIdx) (s : State) : Host.Outcome State Fault Refusal :=
  requireLegal (.saveRange x y) s
    (requireRange (.saveRange x y) s s.index.toNat (rangeDistance x y + 1)
      (advance (.saveRange x y) s (writeRun s s.index.toNat (regBytes s (rangeRegs x y)))))

/-- LOAD_RANGE (R108): V[x]..V[y], in that direction, from memory at I; I unchanged. -/
def execLoadRange (x y : RegIdx) (s : State) : Host.Outcome State Fault Refusal :=
  requireLegal (.loadRange x y) s
    (requireRange (.loadRange x y) s s.index.toNat (rangeDistance x y + 1)
      (advance (.loadRange x y) s (loadRegs s s.index.toNat (rangeRegs x y))))

/-- SAVEFLAGS (R109): RPL[0..x] <- V0..V[x]. -/
def execSaveFlags (x : RegIdx) (s : State) : Host.Outcome State Fault Refusal :=
  requireLegal (.saveFlags x) s (advance (.saveFlags x) s (saveRpl s (runTo x)))

/-- LOADFLAGS (R110): V0..V[x] <- RPL[0..x]. -/
def execLoadFlags (x : RegIdx) (s : State) : Host.Outcome State Fault Refusal :=
  requireLegal (.loadFlags x) s (advance (.loadFlags x) s (loadRpl s (runTo x)))

end Sys2Proof.Machine
end

