-- ==== Sys2Proof/Machine/TimersKeysAudio.lean ====
section
/-! DEFINITION. The instructions that reach the timers, the keypad and the audio registers (45_timers_keys_audio). -/

namespace Sys2Proof.Machine

/-- LD_VX_DT (R133): V[x] <- DT. -/
def execLdVxDt (x : RegIdx) (s : State) : Host.Outcome State Fault Refusal :=
  advance (.ldVxDt x) s (setV s x s.dt)

/-- LD_DT (R134): DT <- V[x]. -/
def execLdDt (x : RegIdx) (s : State) : Host.Outcome State Fault Refusal :=
  advance (.ldDt x) s { s with dt := getV s x }

/-- LD_ST (R135): ST <- V[x]. -/
def execLdSt (x : RegIdx) (s : State) : Host.Outcome State Fault Refusal :=
  advance (.ldSt x) s { s with st := getV s x }

/-- LD_VX_K (R137): PENDING <- KEYWAIT(x), with pc = a + 2 committed. -/
def execLdVxK (x : RegIdx) (s : State) : Host.Outcome State Fault Refusal :=
  advance (.ldVxK x) s { s with pending := .keyWait x }

/-- SKP (R138): skip if the key of V[x]'s low nibble is pressed. -/
def execSkp (x : RegIdx) (s : State) : Host.Outcome State Fault Refusal :=
  skipIf (.skp x) s (keyDown s (lowNibble (getV s x)))

/-- SKNP (R139): skip if the key of V[x]'s low nibble is released. -/
def execSknp (x : RegIdx) (s : State) : Host.Outcome State Fault Refusal :=
  skipIf (.sknp x) s (!keyDown s (lowNibble (getV s x)))

/-- AUDIO (R140): PATTERN <- the 16 bytes at I. -/
def execAudio (s : State) : Host.Outcome State Fault Refusal :=
  requireLegal .audio s
    (requireRange .audio s s.index.toNat 16
      (advance .audio s { s with pattern := Vector.ofFn fun k : Fin 16 => readByte s (s.index.toNat + k.val) }))

/-- LD_PITCH (R141): PITCH <- V[x]. -/
def execLdPitch (x : RegIdx) (s : State) : Host.Outcome State Fault Refusal :=
  requireLegal (.ldPitch x) s (advance (.ldPitch x) s { s with pitch := getV s x })

end Sys2Proof.Machine
end

