-- ==== Sys2Proof/Machine/Fetch.lean ====
section
/-! DEFINITION. Before an instruction executes (40_execute_cycle): the entry checks, the fetch, the decode and the
extension fetch; and the placing of a word where the next fetch reads it. -/

namespace Sys2Proof.Machine

/-- The entry checks of R62: FAULT, HALTED or a wait, in which `execute-one` changes nothing. -/
def stopped (s : State) : Bool := s.fault.isSome || s.halted || s.pending != .none

/-- What the fetch and the decode give: an instruction, or the state in which a fault has been taken. -/
inductive Fetched where
  | instr (i : Instr)
  | raised (t : State)
  deriving DecidableEq, Repr

/-- The extension fetch (R67): the second word of F000 NNNN, whose first word is `w`. -/
def fetchExtension (s : State) (w : Word) : Fetched :=
  match fetchWord s (s.pc.toNat + 2) with
  | .error bad => .raised (raise s .addressFault (some w) (some bad))
  | .ok nnnn => .instr (.ldILong nnnn)

/-- Fetch (R64), decode (R65), extension fetch (R67), with the faults in the order of R148. -/
def fetch (s : State) : Fetched :=
  match fetchWord s s.pc.toNat with
  | .error bad => .raised (raise s .addressFault none (some bad))
  | .ok w =>
    match decode s.variant w 0#16 with
    | none => .raised (raise s .illegalInstruction (some w) none)
    | some i => if isLong s.variant w then fetchExtension s w else .instr i

/-- Writes the bytes that fit below MEM_SIZE at rising addresses from `a`. -/
def placeBytes (s : State) (a : Nat) (bs : List Byte) : State := writeRun s a (bs.take (memSize s - a))

/-- `s` with the instruction whose bits are `w` in memory at PC, and in no stopped state, since `execute-one` fetches
only then (R62; log 6). -/
def placeTableWord (s : State) (nbits w : Nat) : State :=
  { placeBytes s s.pc.toNat (tableBytes nbits w) with fault := none, halted := false, pending := .none }

end Sys2Proof.Machine
end

