-- ==== Sys2Proof/Machine/Step.lean ====
section
/-! DEFINITION. One step: one `execute-one` transaction (40_execute_cycle R62, R63, R70). -/

namespace Sys2Proof.Machine

/-- The instruction cycle after the entry checks (R63): what was fetched is executed, or its fault stands. -/
def cycle (s : State) : Host.Outcome State Fault Refusal :=
  match fetch s with
  | .raised t => .next t
  | .instr i => exec i s

/-- `execute-one` (R62, R70): nothing in a stopped state, else STARTED <- 1, which no fault undoes, and the cycle. -/
def step (s : State) : Host.Outcome State Fault Refusal :=
  if stopped s then .next s else cycle { s with started := true }

/-- The state whose next fetch reads the opcode-table word `w` of `nbits` bits. -/
def State.withFetchWord (s : State) (nbits w : Nat) : State := placeTableWord s nbits w

end Sys2Proof.Machine
end

