-- ==== Sys2Proof/Machine/HostCalls.lean ====
section
/-! DEFINITION. The host's operations (00_scope R13, 45 R131, R136, R142, 70_reset R156, R160, R166): each one atomic
transaction on the state. -/

namespace Sys2Proof.Machine

/-! ### Construction and load -/

/-- The code of a Variant; 3 is reserved (R20). -/
def variantOfCode (code : BitVec 2) : Option Variant :=
  match code with
  | 0#2 => some .chip8
  | 1#2 => some .schip
  | 2#2 => some .xochip
  | _ => none

/-- The sizes `new` accepts (R156). -/
def validParams (v : Variant) (p : Params) : Bool :=
  (v != .xochip || (4096 ≤ p.xoMemSize && p.xoMemSize ≤ 65536)) && 1 ≤ p.stackDepth

/-- The fonts `new` accepts (R156): 80 and 160 bytes. -/
def validFonts (small big : List Byte) : Bool := small.length == 80 && big.length == 160

/-- FONT_SMALL and FONT_BIG written at their bases (R157). -/
def writeFonts (s : State) (small big : List Byte) : State :=
  writeRun (writeRun s fontSmallBase small) fontBigBase big

/-- new(variant, profile) (R156, R157, R159) with the OPEN parameters: a fresh machine, or InvalidProfile. -/
def new (code : BitVec 2) (profile : Byte) (p : Params) (small big : List Byte) : Host.Outcome State Fault Refusal :=
  match variantOfCode code with
  | none => .fault .invalidProfile
  | some v =>
    if validParams v p && validFonts small big then .next (writeFonts (State.construct v profile p) small big)
    else .fault .invalidProfile

/-- load(bytes) (R160): refused outside the protocol; ProgramTooLarge; else the bytes from 0x200 and LOADED <- 1. -/
def load (bytes : List Byte) (s : State) : Host.Outcome State Fault Refusal :=
  if s.loaded || s.started then .refused .loadOutsideProtocol
  else if memSize s < loadAddr + bytes.length then .fault .programTooLarge
  else .next { writeRun s loadAddr bytes with loaded := true }

/-! ### tick and set-key -/

/-- tick(n) (R131): both timers down by n, floored at zero; n ≥ 1 ends a vblank wait. -/
def tick (n : Nat) (s : State) : State :=
  { s with
    dt := BitVec.ofNat 8 (s.dt.toNat - n)
    st := BitVec.ofNat 8 (s.st.toNat - n)
    pending := if 1 ≤ n ∧ s.pending = .vblankWait then .none else s.pending }

/-- Whether a key's change from `old` to `pressed` is the edge that ends a key wait (R136). -/
def resolves (edge : KeyEdge) (old pressed : Bool) : Bool :=
  match edge with
  | .press => !old && pressed
  | .release => old && !pressed

/-- KEYS[k] <- pressed. -/
def setKeyFlag (s : State) (k : Nibble) (pressed : Bool) : State :=
  { s with keys := if pressed then s.keys ||| BitVec.twoPow 16 k.toNat else s.keys &&& ~~~BitVec.twoPow 16 k.toNat }

/-- set-key(k, pressed) (R136): the flag, and the end of a key wait on the profile's edge. -/
def setKey (k : Nibble) (pressed : Bool) (s : State) : State :=
  match s.pending with
  | .keyWait r =>
    if resolves (keyEdge s) (keyDown s k) pressed then
      { setV (setKeyFlag s k pressed) r (k.setWidth 8) with pending := .none }
    else setKeyFlag s k pressed
  | .none => setKeyFlag s k pressed
  | .vblankWait => setKeyFlag s k pressed

/-! ### The result of execute-one (R61, R62) -/

/-- StepOutcome (R61). -/
inductive StepOutcome where
  | executed
  | waitingKey
  | waitingVblank
  | halted
  deriving DecidableEq, Repr

/-- What `execute-one` returns from the state before it and the state after it (R61, R62). -/
def stepResult (before after : State) : Except FaultRecord StepOutcome :=
  match before.fault with
  | some r => .error r
  | none =>
    if before.halted then .ok .halted
    else
      match before.pending with
      | .keyWait _ => .ok .waitingKey
      | .vblankWait => .ok .waitingVblank
      | .none =>
        match after.fault with
        | some r => .error r
        | none => .ok .executed

/-- The code of a run-time fault (R143). -/
def FaultKind.code : FaultKind → Nat
  | .addressFault => 1
  | .illegalInstruction => 2
  | .stackFault => 3

/-- The code of a host-call error (R143). -/
def Fault.code : Fault → Nat
  | .invalidProfile => 16
  | .unsupportedMode => 17
  | .programTooLarge => 18

/-! ### Accessors: copies, with no effect (R36, R142) -/

/-- Whether sound is active (R132). -/
def soundActive (s : State) : Bool := s.st != 0#8

/-- What `display()` returns: W, H, the palette index of every pixel in the window, row by row, and the planes. -/
structure DisplaySnapshot where
  width   : Nat
  height  : Nat
  indices : List (List (BitVec 4))
  planes  : Vector Plane 4
  deriving DecidableEq, Repr

/-- display(). -/
def displaySnapshot (s : State) : DisplaySnapshot :=
  { width := Sys2Proof.Machine.width s.res
    height := Sys2Proof.Machine.height s.res
    indices := (List.range (Sys2Proof.Machine.height s.res)).map fun y =>
      (List.range (Sys2Proof.Machine.width s.res)).map fun x => paletteIndex s x y
    planes := s.planes }

/-- What `audio()` returns. -/
structure AudioSnapshot where
  pattern : Vector Byte 16
  pitch   : Byte
  active  : Bool
  deriving DecidableEq, Repr

/-- audio(). -/
def audioSnapshot (s : State) : AudioSnapshot :=
  { pattern := s.pattern, pitch := s.pitch, active := soundActive s }

/-- What `registers()` returns; `stack` lists the entries 0..SP-1. -/
structure RegisterSnapshot where
  v         : Vector Byte 16
  index     : Word
  pc        : Word
  sp        : Nat
  stack     : List Word
  dt        : Byte
  st        : Byte
  res       : Resolution
  planeMask : BitVec 4
  pending   : Pending
  halted    : Bool
  fault     : Option FaultRecord
  deriving DecidableEq, Repr

/-- registers(). -/
def registerSnapshot (s : State) : RegisterSnapshot :=
  { v := s.v, index := s.index, pc := s.pc, sp := sp s, stack := s.stack.reverse, dt := s.dt, st := s.st
    res := s.res, planeMask := s.planeMask, pending := s.pending, halted := s.halted, fault := s.fault }

/-- memory(): the MEM_SIZE bytes. -/
def memorySnapshot (s : State) : List Byte := (List.range (memSize s)).map (readByte s)

/-! ### All transactions -/

/-- One call of the host (R13, R166). -/
inductive HostCall where
  | new (code : BitVec 2) (profile : Byte) (params : Params) (fontSmall fontBig : List Byte)
  | load (bytes : List Byte)
  | executeOne
  | tick (n : Nat)
  | setKey (k : Nibble) (pressed : Bool)
  | display
  | audio
  | registers
  | memory
  deriving DecidableEq, Repr

/-- The transaction of a call: the next state, a host-call error, or no transition. -/
def transact (c : HostCall) (s : State) : Host.Outcome State Fault Refusal :=
  match c with
  | .new code profile params small big => new code profile params small big
  | .load bytes => load bytes s
  | .executeOne => step s
  | .tick n => .next (tick n s)
  | .setKey k pressed => .next (setKey k pressed s)
  | .display => .next s
  | .audio => .next s
  | .registers => .next s
  | .memory => .next s

end Sys2Proof.Machine
end

