-- ==== Sys2Proof/Safety.lean ====
section
/-! DEFINITION. What counts as a sound state of the machine: the rules of 10_state that hold of every machine `new`
makes, whatever program and host calls follow; and the words the claims use. -/

namespace Sys2Proof.Machine

/-- Pixel (x, y) lies in the window of the current resolution (R26). -/
def inWindow (s : State) (x y : Nat) : Prop := x < width s.res ∧ y < height s.res

/-- MEM is held in canonical form, within the address space (R27, R37). -/
structure MemorySound (s : State) : Prop where
  canonical : Memory.wf s.mem = true
  inRange   : ∀ c ∈ s.mem, c.1 < memSize s

/-- The display state is one the Variant allows (R24, R25, R26). -/
structure DisplaySound (s : State) : Prop where
  /-- RES stays within RES_CEILING. -/
  resolution : resCeiling s.variant = .lores → s.res = .lores
  /-- PLANE_MASK is 0x1 for CHIP8 and SCHIP. -/
  mask       : planeCeiling s.variant = 1 → s.planeMask = 0x1#4
  /-- Pixels outside the window are 0. -/
  window     : ∀ (k : Fin 4) (x y : Nat), ¬ inWindow s x y → Plane.get s.planes[k] x y = false
  /-- Planes from PLANE_CEILING up are 0. -/
  planes     : ∀ (k : Fin 4) (x y : Nat), planeCeiling s.variant ≤ k.val → Plane.get s.planes[k] x y = false

/-- What only an extension's instructions reach stays at its reset value elsewhere (R28, R29, R32). -/
structure ExtensionSound (s : State) : Prop where
  rpl     : ∀ z : RegIdx, rplCount s.variant ≤ z.toNat → getRpl s z = 0#8
  pattern : s.variant ≠ .xochip → s.pattern = Vector.replicate 16 0#8
  pitch   : s.variant ≠ .xochip → s.pitch = 64#8
  halted  : s.halted = true → s.variant ≠ .chip8

/-- A fault record is one R147 describes: addr for an AddressFault and for it alone, word unless the fetch of the first
word faulted, which is an AddressFault. -/
def FaultRecord.sound (r : FaultRecord) : Prop :=
  (r.addr.isSome = true ↔ r.kind = .addressFault) ∧ (r.word = none → r.kind = .addressFault)

/-- FAULT, HALTED and PENDING: the machine is in at most one of the stop states of R155, and in a state that the
instruction or the fault that enters it leaves (R31, R149). -/
structure StopSound (s : State) : Prop where
  faultAlone : s.fault ≠ none → s.halted = false ∧ s.pending = .none
  haltAlone  : s.halted = true → s.pending = .none
  /-- Only a draw under vblank quirk WAIT sets VBLANKWAIT (R31). -/
  vblank     : s.pending = .vblankWait → vblankQuirk s = .wait
  /-- PC stays at the faulting instruction (R149). -/
  faultPc    : ∀ r, s.fault = some r → r.pc = s.pc ∧ FaultRecord.sound r

/-- The machine invariant. -/
structure Inv (s : State) : Prop where
  params    : validParams s.variant s.params = true
  memory    : MemorySound s
  stack     : sp s ≤ s.params.stackDepth
  display   : DisplaySound s
  extension : ExtensionSound s
  stop      : StopSound s

/-! ### Words the claims use -/

/-- The instruction at PC leaves room for a PC `n` bytes on: the range check of R68 passes. -/
abbrev Room (n : Nat) (s : State) : Prop := s.pc.toNat + n < 0x10000

/-- `i` raises a fault in `s` (R147, R149): the record names the kind, PC, the instruction's word and the address, and
nothing else changes. -/
def Raises (i : Instr) (s : State) (kind : FaultKind) (addr : Option Nat) : Prop :=
  exec i s = .next { s with fault := some { kind, pc := s.pc, word := some (firstWord i), addr } }

/-- The `n` bytes from I lie in memory (R42). -/
abbrev IndexRange (n : Nat) (s : State) : Prop := s.index.toNat + n ≤ memSize s

/-- The lowest address from I on that lies outside memory. -/
def lowestOutside (s : State) : Nat := max s.index.toNat (memSize s)

/-- The instruction completes in `s`, in a state of which `P` holds. -/
def Completes (i : Instr) (s : State) (P : State → Prop) : Prop := ∃ t, exec i s = .next t ∧ P t

/-- How many of the planes 0..k-1 PLANE_MASK selects. -/
def planeRank (s : State) (k : Nat) : Nat := ((List.range k).filter fun j => s.planeMask.getLsbD j).length

/-- The bit at row r, column c, of plane k's sprite for DXYN (R116). -/
def drwBit (s : State) (n : Nibble) (k r c : Nat) : Bool :=
  (readByte s (s.index.toNat + planeRank s k * n.toNat + r)).getLsbD (7 - c)

/-- The bit at row r, column c, of plane k's sprite for DXY0 (R116): bytes 2r and 2r + 1 are row r. -/
def drw16Bit (s : State) (k r c : Nat) : Bool :=
  (readByte s (s.index.toNat + planeRank s k * 32 + 2 * r + c / 8)).getLsbD (7 - c % 8)

/-- The sprite bit at row r, column c, drawn at (cx, cy), lands on pixel (px, py) (R117). -/
def lands (s : State) (cx cy : Byte) (r c px py : Nat) : Bool :=
  let x := cx.toNat % width s.res + c
  let y := cy.toNat % height s.res + r
  match clipQuirk s with
  | .wrap => x % width s.res == px && y % height s.res == py
  | .clip => x == px && y == py

/-- The pixel (px, py) of plane k is toggled by a sprite of R rows and C columns with the bits `bit` (R117). -/
def toggled (s : State) (bit : Nat → Nat → Nat → Bool) (R C : Nat) (cx cy : Byte) (k px py : Nat) : Bool :=
  s.planeMask.getLsbD k &&
    (List.range R).any fun r => (List.range C).any fun c => bit k r c && lands s cx cy r c px py

/-- Row r of a sprite collides (R118): in some selected plane, a set bit of it lands on a set pixel of the window. -/
def rowCollides (s : State) (bit : Nat → Nat → Nat → Bool) (C : Nat) (cx cy : Byte) (r : Nat) : Bool :=
  (List.finRange 4).any fun k => s.planeMask.getLsbD k && (List.range C).any fun c => bit k r c &&
    (List.range (width s.res)).any fun px => (List.range (height s.res)).any fun py =>
      lands s cx cy r c px py && Plane.get s.planes[k] px py

/-- Which instructions may write VF (R15): those that leave a flag in it, and those that name it as a destination. -/
def mayWriteVF (s : State) : Instr → Bool
  | .addReg _ _ | .sub _ _ | .subn _ _ | .shr _ _ | .shl _ _ | .drw _ _ _ | .drw16 _ _ => true
  | .or x _ | .and x _ | .xor x _ => s.profile.getLsbD 3 || x == 0xF#4
  | .ldImm x _ | .addImm x _ | .ldReg x _ | .rnd x _ | .ldVxDt x | .load x | .loadFlags x => x == 0xF#4
  | .loadRange x y => x == 0xF#4 || y == 0xF#4
  | _ => false

/-- Which instructions read PROFILE's bit b (R21). Bit 6 is read by set-key alone. -/
def readsProfileBit (b : Nat) : Instr → Bool
  | .shr _ _ | .shl _ _ => b == 0
  | .store _ | .load _ => b == 1
  | .jpOff _ => b == 2
  | .or _ _ | .and _ _ | .xor _ _ => b == 3
  | .drw _ _ _ | .drw16 _ _ => b == 4 || b == 5 || b == 7
  | _ => false

end Sys2Proof.Machine
end

