-- ==== Sys2Proof/Certificates/Slice0/Obligations.lean ====
section
/-! DEFINITION. The statements for the provers. Rule numbers are those of spec/. In a statement about an instruction,
`{ s with … }` says its frame: every other field, and with it every other register, flag, plane, timer and byte of
memory, is as before. -/

open Sys2Proof Sys2Proof.Machine

/-! ### Encoding -/

/-- Words written out from R53's map decode to the instructions they stand for (R39, R50, R53). -/
def Obligations.SpecWordsDecode : Prop :=
  decode .xochip 0x00E0#16 0#16 = some .cls ∧ decode .xochip 0x00C3#16 0#16 = some (.scd 3#4) ∧
  decode .chip8 0x1234#16 0#16 = some (.jp 0x234#12) ∧ decode .chip8 0x3A42#16 0#16 = some (.seImm 0xA#4 0x42#8) ∧
  decode .xochip 0x5342#16 0#16 = some (.saveRange 3#4 4#4) ∧ decode .chip8 0x8126#16 0#16 = some (.shr 1#4 2#4) ∧
  decode .chip8 0xD123#16 0#16 = some (.drw 1#4 2#4 3#4) ∧ decode .schip 0xD120#16 0#16 = some (.drw16 1#4 2#4) ∧
  decode .chip8 0xE59E#16 0#16 = some (.skp 5#4) ∧ decode .chip8 0xF333#16 0#16 = some (.bcd 3#4) ∧
  decode .xochip 0xF301#16 0#16 = some (.plane 3#4) ∧
  decode .xochip 0xF000#16 0xABCD#16 = some (.ldILong 0xABCD#16) ∧ decode .schip 0xF000#16 0xABCD#16 = none

/-- Decoding the bytes of a well-formed instruction that the Variant has gives it back, and the bytes after it. -/
def Obligations.DecodeOfEncodeIsTheInstruction : Prop :=
  ∀ (v : Variant) (i : Instr) (rest : List Byte), i.wf = true → i.legalIn v = true →
    decodeBytes v (encodeBytes i ++ rest) = .ok (i, rest)

/-- Strict decoding (R56): a word that decodes is, bit for bit, the first word of the instruction it decodes to, which
is well-formed and one the Variant has; and the second word is an operand of F000 NNNN alone. -/
def Obligations.DecodedWordIsTheInstructionsWord : Prop :=
  ∀ (v : Variant) (w nnnn : Word) (i : Instr), decode v w nnnn = some i →
    firstWord i = w ∧ i.wf = true ∧ i.legalIn v = true ∧ laterWords i = if isLong v w then [nnnn] else []

/-- The legality table (R54): an instruction the Variant does not have raises IllegalInstruction, with no effect. -/
def Obligations.InstructionOutsideVariantIsIllegal : Prop :=
  ∀ (i : Instr) (s : State), i.legalIn s.variant = false → Raises i s .illegalInstruction none

/-! ### The cycle -/

/-- A step runs the decoded instruction (R63, R65, R67, R70): outside the stop states, when the bytes at PC decode to an
instruction, the step is `exec` of it with STARTED set; for F000 NNNN in XOCHIP the operand is the word at PC + 2. -/
def Obligations.StepRunsTheDecodedInstruction : Prop :=
  ∀ (s : State) (i : Instr), stopped s = false → s.pc.toNat + 2 ≤ memSize s →
    decode s.variant (readWord s s.pc.toNat) 0#16 = some i →
      (isLong s.variant (readWord s s.pc.toNat) = false → step s = exec i { s with started := true }) ∧
      (isLong s.variant (readWord s s.pc.toNat) = true → s.pc.toNat + 4 ≤ memSize s →
        step s = exec (.ldILong (readWord s (s.pc.toNat + 2))) { s with started := true })

/-- The entry checks (R62), in their order: in a stop state `execute-one` changes nothing and returns the record, HALTED
or the wait; otherwise it sets STARTED and runs the cycle. -/
def Obligations.EntryChecks : Prop :=
  ∀ s : State,
    (∀ r, s.fault = some r → step s = .next s ∧ stepResult s s = .error r) ∧
    (s.fault = none → s.halted = true → step s = .next s ∧ stepResult s s = .ok .halted) ∧
    (∀ r, s.fault = none → s.halted = false → s.pending = .keyWait r →
      step s = .next s ∧ stepResult s s = .ok .waitingKey) ∧
    (s.fault = none → s.halted = false → s.pending = .vblankWait →
      step s = .next s ∧ stepResult s s = .ok .waitingVblank) ∧
    (s.fault = none → s.halted = false → s.pending = .none → step s = cycle { s with started := true })

/-- The fetch (R64): the big-endian word at a when both bytes lie in memory; AddressFault(a) when a lies outside memory,
AddressFault(MEM_SIZE) when only a + 1 does; the record's pc is a and it has no word. -/
def Obligations.FetchReadsTheWordAtPc : Prop :=
  ∀ s : State,
    (s.pc.toNat + 2 ≤ memSize s →
      fetchWord s s.pc.toNat = .ok (readByte s s.pc.toNat ++ readByte s (s.pc.toNat + 1))) ∧
    (stopped s = false → memSize s ≤ s.pc.toNat → step s = .next { s with
      started := true, fault := some { kind := .addressFault, pc := s.pc, word := none, addr := some s.pc.toNat } }) ∧
    (stopped s = false → s.pc.toNat + 1 = memSize s → step s = .next { s with
      started := true, fault := some { kind := .addressFault, pc := s.pc, word := none, addr := some (memSize s) } })

/-- The extension fetch (R67): F000 NNNN whose second word does not lie in memory raises AddressFault with the lowest
address outside. -/
def Obligations.ExtensionFetchOutsideMemoryFaults : Prop :=
  ∀ s : State, stopped s = false → s.variant = .xochip → s.pc.toNat + 2 ≤ memSize s →
    memSize s < s.pc.toNat + 4 → readWord s s.pc.toNat = 0xF000#16 →
      step s = .next { s with
        started := true
        fault := some { kind := .addressFault, pc := s.pc, word := some 0xF000#16, addr := some (max (s.pc.toNat + 2) (memSize s)) } }

/-- IllegalInstruction has one cause (R145): a step raises it exactly when the word at PC lies in memory and decodes to
nothing in the Variant, and the record holds that word and PC. -/
def Obligations.IllegalInstructionExactlyWhenUndecodable : Prop :=
  ∀ s t : State, stopped s = false → step s = .next t →
    ((∃ r, t.fault = some r ∧ r.kind = .illegalInstruction) ↔
      s.pc.toNat + 2 ≤ memSize s ∧ decode s.variant (readWord s s.pc.toNat) 0#16 = none) ∧
    ∀ r, t.fault = some r → r.kind = .illegalInstruction → r.word = some (readWord s s.pc.toNat) ∧ r.pc = s.pc

/-- StackFault has two causes (R146): a call with SP = STACK_DEPTH and a return with SP = 0. -/
def Obligations.StackFaultExactlyOnImbalance : Prop :=
  ∀ (i : Instr) (s t : State), s.fault = none → exec i s = .next t →
    ((∃ r, t.fault = some r ∧ r.kind = .stackFault) ↔
      ((∃ nnn, i = .call nnn) ∧ sp s = s.params.stackDepth) ∨ (i = .ret ∧ sp s = 0)) ∧
    ∀ r, t.fault = some r → r.kind = .stackFault → r.word = some (firstWord i) ∧ r.pc = s.pc

/-- A fault is precise (R149): outside the stop states a step answers a next state, and either it raised no fault and
`execute-one` returns EXECUTED (R61, R63), or FAULT and STARTED are all that changed; PC stays at the faulting
instruction, which the record names, and `execute-one` returns the record. -/
def Obligations.FaultsArePrecise : Prop :=
  ∀ s : State, stopped s = false → ∃ t, step s = .next t ∧
    (t.fault = none ∧ stepResult s t = .ok .executed ∨ ∃ r, t = { s with started := true, fault := some r } ∧ r.pc = s.pc ∧
      FaultRecord.sound r ∧ stepResult s t = .error r)

/-- Every instruction, in every state, completes or raises one of the faults (R72): it answers a next state in which
either FAULT is as it was or FAULT is all that changed. -/
def Obligations.EveryInstructionCompletesOrFaults : Prop :=
  ∀ (i : Instr) (s : State), ∃ t, exec i s = .next t ∧
    (t.fault = s.fault ∨ ∃ r, t = { s with fault := some r } ∧ r.pc = s.pc ∧ r.word = some (firstWord i))

/-- The PC range check (R68): an instruction other than a jump, call, return or skip that would end past 0xFFFF raises
AddressFault with that pc, and nothing of it takes effect; one that accesses memory does so when the access itself is in
range (R148). -/
def Obligations.PcPastTheTopFaults : Prop :=
  ∀ (s : State) (x y : RegIdx) (n : Nibble) (nn : Byte) (nnn : Addr12) (nnnn : Word) (d : Nat),
    d = (if x.toNat ≤ y.toNat then y.toNat - x.toNat else x.toNat - y.toNat) →
    (0x10000 ≤ s.pc.toNat + 2 →
      (∀ i ∈ [Instr.ldImm x nn, .addImm x nn, .ldReg x y, .or x y, .and x y, .xor x y, .addReg x y, .sub x y, .subn x y,
          .shr x y, .shl x y, .rnd x nn, .ldI nnn, .addI x, .ldF x, .ldVxDt x, .ldDt x, .ldSt x, .ldVxK x, .cls],
        Raises i s .addressFault (some (s.pc.toNat + 2))) ∧
      (∀ i ∈ [Instr.scd n, .scu n, .scr, .scl, .exit, .low, .high, .plane n, .ldPitch x, .ldHf x, .saveFlags x,
          .loadFlags x],
        i.legalIn s.variant = true → Raises i s .addressFault (some (s.pc.toNat + 2))) ∧
      (∀ p ∈ [(Instr.bcd x, 3), (.store x, x.toNat + 1), (.load x, x.toNat + 1), (.saveRange x y, d + 1),
          (.loadRange x y, d + 1), (.audio, 16), (.drw x y n, planeRank s 4 * n.toNat), (.drw16 x y, planeRank s 4 * 32)],
        p.1.legalIn s.variant = true → p.2 = 0 ∨ IndexRange p.2 s →
          Raises p.1 s .addressFault (some (s.pc.toNat + 2)))) ∧
    (s.variant = .xochip → 0x10000 ≤ s.pc.toNat + 4 →
      Raises (.ldILong nnnn) s .addressFault (some (s.pc.toNat + 4)))

/-! ### Control transfer -/

/-- JP (R76): PC is nnn, inside memory; the next fetch there faults only at 0xFFF with MEM_SIZE = 4096. -/
def Obligations.JumpGoesToItsTarget : Prop :=
  ∀ (nnn : Addr12) (s : State), exec (.jp nnn) s = .next { s with pc := nnn.setWidth 16 } ∧
    (validParams s.variant s.params = true → nnn.toNat < memSize s ∧
      fetchWord { s with pc := nnn.setWidth 16 } (nnn.setWidth 16 : Word).toNat =
        if memSize s = 4096 ∧ nnn = 0xFFF#12 then .error 0x1000 else .ok (readWord s nnn.toNat))

/-- CALL (R77) with Push (R73): a + 2 is pushed and PC is nnn; with SP = STACK_DEPTH, StackFault. For a call at 0xFFFE or
0xFFFF the pushed a + 2 wraps to 16 bits, which is the model's choice (log 12, DEDUCED). -/
def Obligations.CallPushesTheReturnAddress : Prop :=
  ∀ (nnn : Addr12) (s : State),
    (sp s ≠ s.params.stackDepth →
      exec (.call nnn) s = .next { s with stack := (s.pc + 2#16) :: s.stack, pc := nnn.setWidth 16 }) ∧
    (sp s = s.params.stackDepth → Raises (.call nnn) s .stackFault none)

/-- RET (R78) with Pop (R74): PC is the newest return address; with SP = 0, StackFault; a return lands just after its
call: call, then return, is the state before the call with PC two bytes on. For a call at 0xFFFE or 0xFFFF, PC two
bytes on wraps to 16 bits, which is the model's choice (log 12, DEDUCED). -/
def Obligations.ReturnPopsTheReturnAddress : Prop :=
  ∀ (s : State) (top : Word) (below : List Word) (nnn : Addr12),
    (s.stack = top :: below → exec .ret s = .next { s with stack := below, pc := top }) ∧
    (sp s = 0 → Raises .ret s .stackFault none) ∧
    (sp s < s.params.stackDepth →
      Completes (.call nnn) s fun t => sp t = sp s + 1 ∧ exec .ret t = .next { s with pc := s.pc + 2#16 })

/-- JP_OFF (R79): nnn plus V0, or plus V[nnn[11:8]] under jump quirk VX. -/
def Obligations.JumpWithOffset : Prop :=
  ∀ (nnn : Addr12) (s : State),
    (s.profile.getLsbD 2 = false → exec (.jpOff nnn) s =
      .next { s with pc := BitVec.ofNat 16 (nnn.toNat + (getV s 0#4).toNat) }) ∧
    (s.profile.getLsbD 2 = true → exec (.jpOff nnn) s =
      .next { s with pc := BitVec.ofNat 16 (nnn.toNat + (getV s (nnn.extractLsb' 8 4)).toNat) }) ∧
    nnn.toNat + (getV s 0#4).toNat ≤ 0x10FE ∧ nnn.toNat + (getV s (nnn.extractLsb' 8 4)).toNat ≤ 0x10FE

/-- The register skips (R75, R80, R81, R82, R83): taken, PC passes the next instruction, 4 bytes of it when it is F000
NNNN in XOCHIP and lies in memory, else 2; not taken, PC is a + 2; nothing else changes. Past 0xFFFF, taken or not, it
raises AddressFault (R68). -/
def Obligations.RegisterSkips : Prop :=
  ∀ (x y : RegIdx) (nn : Byte) (s : State) (target : Nat),
    target = s.pc.toNat + 2 + (if s.variant = .xochip ∧ s.pc.toNat + 3 < memSize s ∧
      readWord s (s.pc.toNat + 2) = 0xF000#16 then 4 else 2) →
    ∀ p ∈ [(Instr.seImm x nn, getV s x == nn), (.sneImm x nn, getV s x != nn), (.seReg x y, getV s x == getV s y),
        (.sneReg x y, getV s x != getV s y)],
      (p.2 = true → target < 0x10000 → exec p.1 s = .next { s with pc := BitVec.ofNat 16 target }) ∧
      (p.2 = true → 0x10000 ≤ target → Raises p.1 s .addressFault (some target)) ∧
      (p.2 = false → Room 2 s → exec p.1 s = .next { s with pc := s.pc + 2#16 }) ∧
      (p.2 = false → 0x10000 ≤ s.pc.toNat + 2 → Raises p.1 s .addressFault (some (s.pc.toNat + 2)))

/-- The key skips (R138, R139): the key of V[x]'s low nibble decides; taken or not, they are as the register skips. -/
def Obligations.KeySkips : Prop :=
  ∀ (x : RegIdx) (s : State) (target : Nat),
    target = s.pc.toNat + 2 + (if s.variant = .xochip ∧ s.pc.toNat + 3 < memSize s ∧
      readWord s (s.pc.toNat + 2) = 0xF000#16 then 4 else 2) →
    ∀ p ∈ [(Instr.skp x, s.keys.getLsbD ((getV s x).toNat % 16)), (.sknp x, !s.keys.getLsbD ((getV s x).toNat % 16))],
      (p.2 = true → target < 0x10000 → exec p.1 s = .next { s with pc := BitVec.ofNat 16 target }) ∧
      (p.2 = true → 0x10000 ≤ target → Raises p.1 s .addressFault (some target)) ∧
      (p.2 = false → Room 2 s → exec p.1 s = .next { s with pc := s.pc + 2#16 }) ∧
      (p.2 = false → 0x10000 ≤ s.pc.toNat + 2 → Raises p.1 s .addressFault (some (s.pc.toNat + 2)))

/-- EXIT (R84): HALTED is set, every later `execute-one` changes nothing and returns HALTED; illegal in CHIP8. -/
def Obligations.ExitHalts : Prop :=
  ∀ s : State,
    (s.variant ≠ .chip8 → Room 2 s → exec .exit s = .next { s with halted := true, pc := s.pc + 2#16 }) ∧
    (s.variant = .chip8 → Raises .exit s .illegalInstruction none) ∧
    (s.fault = none → s.halted = true → step s = .next s ∧ stepResult s s = .ok .halted)

/-! ### ALU -/

/-- LD_IMM, ADD_IMM, LD_REG (R87, R88, R89): V[x] alone takes nn, the sum modulo 256, or V[y]; no flag. -/
def Obligations.LoadAndAddImmediate : Prop :=
  ∀ (x y : RegIdx) (nn : Byte) (s : State), Room 2 s →
    ∀ p ∈ [(Instr.ldImm x nn, nn.toNat), (.addImm x nn, ((getV s x).toNat + nn.toNat) % 256), (.ldReg x y, (getV s y).toNat)],
      Completes p.1 s fun t => t = { s with v := t.v, pc := s.pc + 2#16 } ∧
        ∀ z, (getV t z).toNat = if z = x then p.2 else (getV s z).toNat

/-- OR, AND, XOR (R90, R91, R92): V[x] takes the bitwise result; under logic quirk VF_CLEARED, VF is then 0. -/
def Obligations.LogicOperations : Prop :=
  ∀ (x y : RegIdx) (s : State), Room 2 s →
    ∀ p ∈ [(Instr.or x y, getV s x ||| getV s y), (.and x y, getV s x &&& getV s y), (.xor x y, getV s x ^^^ getV s y)],
      Completes p.1 s fun t => t = { s with v := t.v, pc := s.pc + 2#16 } ∧
        ∀ z, getV t z = if z = 0xF#4 ∧ s.profile.getLsbD 3 = true then 0#8 else if z = x then p.2 else getV s z

/-- ADD_REG (R93) with the flag order of R86: V[x] takes the sum modulo 256, VF the carry, last. -/
def Obligations.AddSetsCarry : Prop :=
  ∀ (x y : RegIdx) (s : State), Room 2 s →
    Completes (.addReg x y) s fun t => t = { s with v := t.v, pc := s.pc + 2#16 } ∧
      ∀ z, (getV t z).toNat =
        if z = 0xF#4 then (if (getV s x).toNat + (getV s y).toNat > 255 then 1 else 0)
        else if z = x then ((getV s x).toNat + (getV s y).toNat) % 256 else (getV s z).toNat

/-- SUB and SUBN (R94, R95): V[x] takes the difference modulo 256, VF is 1 when nothing is borrowed, last. -/
def Obligations.SubtractSetsNoBorrow : Prop :=
  ∀ (x y : RegIdx) (s : State), Room 2 s →
    ∀ p ∈ [(Instr.sub x y, getV s x, getV s y), (.subn x y, getV s y, getV s x)],
      Completes p.1 s fun t => t = { s with v := t.v, pc := s.pc + 2#16 } ∧
        ∀ z, ((getV t z).toNat : Int) =
          if z = 0xF#4 then (if p.2.1.toNat ≥ p.2.2.toNat then 1 else 0)
          else if z = x then ((p.2.1.toNat : Int) - p.2.2.toNat) % 256 else (getV s z).toNat

/-- SHR and SHL (R96, R97): the source is V[y], or V[x] under shift quirk VX_IN_PLACE; V[x] takes it shifted by one bit,
VF the bit shifted out, last. -/
def Obligations.ShiftsCaptureTheBitShiftedOut : Prop :=
  ∀ (x y : RegIdx) (s : State) (src : Nat), Room 2 s →
    src = (if s.profile.getLsbD 0 = true then getV s x else getV s y).toNat →
    ∀ p ∈ [(Instr.shr x y, src / 2, src % 2), (.shl x y, src * 2 % 256, src / 128)],
      Completes p.1 s fun t => t = { s with v := t.v, pc := s.pc + 2#16 } ∧
        ∀ z, (getV t z).toNat = if z = 0xF#4 then p.2.2 else if z = x then p.2.1 else (getV s z).toNat

/-- RND (R98): V[x] takes a free byte AND nn, whatever the byte; with nn = 0 it is 0. The draw counter, which is the
model's own (log 4), moves to the next draw. -/
def Obligations.RandomIsMasked : Prop :=
  ∀ (x : RegIdx) (nn : Byte) (s : State), Room 2 s →
    Completes (.rnd x nn) s fun t =>
      t = { s with v := t.v, pc := s.pc + 2#16, draws := s.draws + 1 } ∧
        (∀ z, getV t z = if z = x then Config.rand8 s.draws &&& nn else getV s z) ∧
        (nn = 0#8 → getV t x = 0#8)

/-! ### Index register and memory -/

/-- LD_I, LD_I_LONG, ADD_I (R99, R100, R101): I alone changes; LD_I_LONG goes on 4 bytes and is XOCHIP's only. -/
def Obligations.IndexLoadsAndAdd : Prop :=
  ∀ (x : RegIdx) (nnn : Addr12) (nnnn : Word) (s : State),
    (Room 2 s → exec (.ldI nnn) s = .next { s with index := BitVec.ofNat 16 nnn.toNat, pc := s.pc + 2#16 }) ∧
    (s.variant = .xochip → Room 4 s →
      exec (.ldILong nnnn) s = .next { s with index := nnnn, pc := s.pc + 4#16 }) ∧
    (s.variant ≠ .xochip → Raises (.ldILong nnnn) s .illegalInstruction none) ∧
    (Room 2 s → exec (.addI x) s =
      .next { s with index := BitVec.ofNat 16 (s.index.toNat + (getV s x).toNat), pc := s.pc + 2#16 })

/-- LD_F and LD_HF (R102, R103): I is the glyph address of V[x]'s low nibble. -/
def Obligations.GlyphAddresses : Prop :=
  ∀ (x : RegIdx) (s : State), Room 2 s →
    exec (.ldF x) s = .next { s with index := BitVec.ofNat 16 (5 * ((getV s x).toNat % 16)), pc := s.pc + 2#16 } ∧
    (s.variant ≠ .chip8 → exec (.ldHf x) s =
      .next { s with index := BitVec.ofNat 16 (0x50 + 10 * ((getV s x).toNat % 16)), pc := s.pc + 2#16 }) ∧
    (s.variant = .chip8 → Raises (.ldHf x) s .illegalInstruction none)

/-- BCD (R104): the decimal digits of V[x] at I, I + 1, I + 2; outside memory AddressFault, nothing written. -/
def Obligations.BcdWritesTheDigits : Prop :=
  ∀ (x : RegIdx) (s : State), Memory.wf s.mem = true →
    (Room 2 s → IndexRange 3 s → Completes (.bcd x) s fun t =>
      t = { s with mem := t.mem, pc := s.pc + 2#16 } ∧
      (readByte t s.index.toNat).toNat = (getV s x).toNat / 100 ∧
      (readByte t (s.index.toNat + 1)).toNat = (getV s x).toNat / 10 % 10 ∧
      (readByte t (s.index.toNat + 2)).toNat = (getV s x).toNat % 10 ∧
      ∀ a, (a < s.index.toNat ∨ s.index.toNat + 2 < a) → readByte t a = readByte s a) ∧
    (¬ IndexRange 3 s → Raises (.bcd x) s .addressFault (some (lowestOutside s)))

/-- STORE (R105): V0..V[x] at I..I + x, no other byte; I advanced by x + 1 modulo 2^16 under INCREMENT, else kept;
outside memory AddressFault, nothing written. -/
def Obligations.StoreDumpsTheRegisters : Prop :=
  ∀ (x : RegIdx) (s : State), Memory.wf s.mem = true →
    (Room 2 s → IndexRange (x.toNat + 1) s → Completes (.store x) s fun t =>
      t = { s with
        mem := t.mem, pc := s.pc + 2#16
        index := if s.profile.getLsbD 1 = true then s.index else BitVec.ofNat 16 (s.index.toNat + x.toNat + 1) } ∧
      (∀ z : RegIdx, z ≤ x → readByte t (s.index.toNat + z.toNat) = getV s z) ∧
      ∀ a, (a < s.index.toNat ∨ s.index.toNat + x.toNat < a) → readByte t a = readByte s a) ∧
    (¬ IndexRange (x.toNat + 1) s → Raises (.store x) s .addressFault (some (lowestOutside s)))

/-- LOAD (R106): V0..V[x] from I..I + x, no other register; I as for STORE; outside memory AddressFault. -/
def Obligations.LoadFillsTheRegisters : Prop :=
  ∀ (x : RegIdx) (s : State),
    (Room 2 s → IndexRange (x.toNat + 1) s → Completes (.load x) s fun t =>
      t = { s with
        v := t.v, pc := s.pc + 2#16
        index := if s.profile.getLsbD 1 = true then s.index else BitVec.ofNat 16 (s.index.toNat + x.toNat + 1) } ∧
      ∀ z : RegIdx, getV t z = if z ≤ x then readByte s (s.index.toNat + z.toNat) else getV s z) ∧
    (¬ IndexRange (x.toNat + 1) s → Raises (.load x) s .addressFault (some (lowestOutside s)))

/-- STORE then LOAD round-trips the registers (R106): from any state with the memory the dump left and the same starting
index, LOAD gives V0..V[x] the values dumped, whatever the load/store quirk. -/
def Obligations.StoreThenLoadRoundTrips : Prop :=
  ∀ (x : RegIdx) (s t u : State), Memory.wf s.mem = true → Room 2 s → IndexRange (x.toNat + 1) s →
    exec (.store x) s = .next t → u.mem = t.mem → u.index = s.index → memSize u = memSize s → Room 2 u →
      Completes (.load x) u fun w => ∀ z : RegIdx, z ≤ x → getV w z = getV s z

/-- SAVE_RANGE (R107): V[x], then on towards V[y], from I; I unchanged; no other byte. -/
def Obligations.SaveRangeStoresInOrder : Prop :=
  ∀ (x y : RegIdx) (s : State) (d : Nat), Memory.wf s.mem = true →
    d = (if x.toNat ≤ y.toNat then y.toNat - x.toNat else x.toNat - y.toNat) →
    (s.variant = .xochip → Room 2 s → IndexRange (d + 1) s → Completes (.saveRange x y) s fun t =>
      t = { s with mem := t.mem, pc := s.pc + 2#16 } ∧
      (∀ k ≤ d, readByte t (s.index.toNat + k) =
        getV s (BitVec.ofNat 4 (if x.toNat ≤ y.toNat then x.toNat + k else x.toNat - k))) ∧
      ∀ a, (a < s.index.toNat ∨ s.index.toNat + d < a) → readByte t a = readByte s a) ∧
    (s.variant = .xochip → ¬ IndexRange (d + 1) s →
      Raises (.saveRange x y) s .addressFault (some (lowestOutside s))) ∧
    (s.variant ≠ .xochip → Raises (.saveRange x y) s .illegalInstruction none)

/-- LOAD_RANGE (R108): V[x], then on towards V[y], from memory at I; I unchanged; no other register. -/
def Obligations.LoadRangeLoadsInOrder : Prop :=
  ∀ (x y : RegIdx) (s : State) (d : Nat),
    d = (if x.toNat ≤ y.toNat then y.toNat - x.toNat else x.toNat - y.toNat) →
    (s.variant = .xochip → Room 2 s → IndexRange (d + 1) s → Completes (.loadRange x y) s fun t =>
      t = { s with v := t.v, pc := s.pc + 2#16 } ∧
      (∀ k ≤ d, getV t (BitVec.ofNat 4 (if x.toNat ≤ y.toNat then x.toNat + k else x.toNat - k)) =
        readByte s (s.index.toNat + k)) ∧
      ∀ z : RegIdx, (z < x ∧ z < y ∨ x < z ∧ y < z) → getV t z = getV s z) ∧
    (s.variant = .xochip → ¬ IndexRange (d + 1) s →
      Raises (.loadRange x y) s .addressFault (some (lowestOutside s))) ∧
    (s.variant ≠ .xochip → Raises (.loadRange x y) s .illegalInstruction none)

/-- SAVEFLAGS and LOADFLAGS (R109, R110): RPL[0..x] and V0..V[x]; legal in SCHIP for x ≤ 7 and in XOCHIP. -/
def Obligations.PersistentFlags : Prop :=
  ∀ (x : RegIdx) (s : State),
    ((s.variant = .xochip ∨ s.variant = .schip ∧ x ≤ 7#4) → Room 2 s →
      (Completes (.saveFlags x) s fun t => t = { s with rpl := t.rpl, pc := s.pc + 2#16 } ∧
        ∀ z, getRpl t z = if z ≤ x then getV s z else getRpl s z) ∧
      Completes (.loadFlags x) s fun t => t = { s with v := t.v, pc := s.pc + 2#16 } ∧
        ∀ z, getV t z = if z ≤ x then getRpl s z else getV s z) ∧
    ((s.variant = .chip8 ∨ s.variant = .schip ∧ 8#4 ≤ x) →
      Raises (.saveFlags x) s .illegalInstruction none ∧ Raises (.loadFlags x) s .illegalInstruction none)

/-- A store is seen by the next fetch (R47): when FX55, run by a step, writes over the word at a + 2, what the next step
fetches is the word of the registers stored there. -/
def Obligations.StoreIsSeenByTheNextFetch : Prop :=
  ∀ (x : RegIdx) (s t : State) (k : Nat), Memory.wf s.mem = true → Room 2 s → IndexRange (x.toNat + 1) s →
    s.index.toNat + k = s.pc.toNat + 2 → k < x.toNat → exec (.store x) s = .next t →
      fetchWord t t.pc.toNat = .ok (getV s (BitVec.ofNat 4 k) ++ getV s (BitVec.ofNat 4 (k + 1)))

/-! ### Display -/

/-- CLS (R122) with clear() (R114): every pixel of every selected plane is 0; the other planes and RES stay. -/
def Obligations.ClearSelectedPlanes : Prop :=
  ∀ s : State, Room 2 s → Completes .cls s fun t =>
    t = { s with planes := t.planes, pc := s.pc + 2#16 } ∧
    ∀ (k : Fin 4) (x y : Nat), Plane.get t.planes[k] x y = (!s.planeMask.getLsbD k && Plane.get s.planes[k] x y)

/-- SCD and SCU (R115, R123, R124): the window of each selected plane moves n rows down or up, zero-filled. -/
def Obligations.VerticalScrolls : Prop :=
  ∀ (n : Nibble) (s : State), Room 2 s →
    (s.variant ≠ .chip8 → Completes (.scd n) s fun t => t = { s with planes := t.planes, pc := s.pc + 2#16 } ∧
      ∀ (k : Fin 4), (s.planeMask.getLsbD k = false → t.planes[k] = s.planes[k]) ∧
        (s.planeMask.getLsbD k = true → ∀ x y, x < width s.res → y < height s.res →
          Plane.get t.planes[k] x y = if n.toNat ≤ y then Plane.get s.planes[k] x (y - n.toNat) else false)) ∧
    (s.variant = .xochip → Completes (.scu n) s fun t => t = { s with planes := t.planes, pc := s.pc + 2#16 } ∧
      ∀ (k : Fin 4), (s.planeMask.getLsbD k = false → t.planes[k] = s.planes[k]) ∧
        (s.planeMask.getLsbD k = true → ∀ x y, x < width s.res → y < height s.res →
          Plane.get t.planes[k] x y =
            if y + n.toNat < height s.res then Plane.get s.planes[k] x (y + n.toNat) else false)) ∧
    (s.variant = .chip8 → Raises (.scd n) s .illegalInstruction none) ∧
    (s.variant ≠ .xochip → Raises (.scu n) s .illegalInstruction none)

/-- SCR and SCL (R115, R125, R126): the window of each selected plane moves 4 columns right or left, zero-filled. -/
def Obligations.HorizontalScrolls : Prop :=
  ∀ s : State, Room 2 s →
    (s.variant ≠ .chip8 → Completes .scr s fun t => t = { s with planes := t.planes, pc := s.pc + 2#16 } ∧
      ∀ (k : Fin 4), (s.planeMask.getLsbD k = false → t.planes[k] = s.planes[k]) ∧
        (s.planeMask.getLsbD k = true → ∀ x y, x < width s.res → y < height s.res →
          Plane.get t.planes[k] x y = if 4 ≤ x then Plane.get s.planes[k] (x - 4) y else false)) ∧
    (s.variant ≠ .chip8 → Completes .scl s fun t => t = { s with planes := t.planes, pc := s.pc + 2#16 } ∧
      ∀ (k : Fin 4), (s.planeMask.getLsbD k = false → t.planes[k] = s.planes[k]) ∧
        (s.planeMask.getLsbD k = true → ∀ x y, x < width s.res → y < height s.res →
          Plane.get t.planes[k] x y = if x + 4 < width s.res then Plane.get s.planes[k] (x + 4) y else false)) ∧
    (s.variant = .chip8 → Raises .scr s .illegalInstruction none ∧ Raises .scl s .illegalInstruction none)

/-- LOW and HIGH (R113, R127, R128): all four planes cleared, whatever PLANE_MASK holds, and RES set. -/
def Obligations.ResolutionSwitchClearsAllPlanes : Prop :=
  ∀ s : State,
    (s.variant ≠ .chip8 → Room 2 s → ∀ p ∈ [(Instr.low, Resolution.lores), (.high, .hires)],
      Completes p.1 s fun t => t = { s with planes := t.planes, res := p.2, pc := s.pc + 2#16 } ∧
        ∀ (k : Fin 4) (x y : Nat), Plane.get t.planes[k] x y = false) ∧
    (s.variant = .chip8 → Raises .low s .illegalInstruction none ∧ Raises .high s .illegalInstruction none)

/-- PLANE (R129): PLANE_MASK takes n; XOCHIP only. -/
def Obligations.PlaneSelectsTheMask : Prop :=
  ∀ (n : Nibble) (s : State),
    (s.variant = .xochip → Room 2 s → exec (.plane n) s = .next { s with planeMask := n, pc := s.pc + 2#16 }) ∧
    (s.variant ≠ .xochip → Raises (.plane n) s .illegalInstruction none)

/-- DRW and DRW16 complete (R119, R120, R121): the planes, VF, PC and, under vblank quirk WAIT, PENDING are all that
changes; planes PLANE_MASK does not select stay; a sprite outside memory raises AddressFault; DRW16 is illegal in
CHIP8. -/
def Obligations.DrawsComplete : Prop :=
  ∀ (x y : RegIdx) (n : Nibble) (s : State),
    (∀ p ∈ [(Instr.drw x y n, planeRank s 4 * n.toNat), (.drw16 x y, planeRank s 4 * 32)],
      p.1.legalIn s.variant = true →
        (Room 2 s → p.2 = 0 ∨ IndexRange p.2 s → Completes p.1 s fun t =>
          t = { s with
            planes := t.planes, v := t.v, pc := s.pc + 2#16
            pending := if s.profile.getLsbD 5 = true then .vblankWait else s.pending } ∧
          (∀ z, z ≠ 0xF#4 → getV t z = getV s z) ∧
          ∀ k : Fin 4, s.planeMask.getLsbD k = false → t.planes[k] = s.planes[k]) ∧
        (p.2 ≠ 0 → ¬ IndexRange p.2 s → Raises p.1 s .addressFault (some (lowestOutside s)))) ∧
    (s.variant = .chip8 → Raises (.drw16 x y) s .illegalInstruction none)

/-- draw-sprite (R116, R117): in every plane, exactly the window pixels on which a set sprite bit lands are toggled. -/
def Obligations.DrawTogglesExactlyTheSprite : Prop :=
  ∀ (x y : RegIdx) (n : Nibble) (s : State), Room 2 s →
    ∀ p ∈ [(Instr.drw x y n, planeRank s 4 * n.toNat, toggled s (drwBit s n) n.toNat 8),
        (.drw16 x y, planeRank s 4 * 32, toggled s (drw16Bit s) 16 16)],
      p.1.legalIn s.variant = true → p.2.1 = 0 ∨ IndexRange p.2.1 s → Completes p.1 s fun t =>
        ∀ (k : Fin 4) (px py : Nat), Plane.get t.planes[k] px py =
          (Plane.get s.planes[k] px py ^^
            (px < width s.res && py < height s.res && p.2.2 (getV s x) (getV s y) k px py))

/-- Collision (R118): VF is the number of sprite rows that collided, each counted once whatever the planes, or under
collision quirk FLAG whether there is one. -/
def Obligations.DrawReportsCollidedRows : Prop :=
  ∀ (x y : RegIdx) (n : Nibble) (s : State), Room 2 s →
    ∀ p ∈ [(Instr.drw x y n, planeRank s 4 * n.toNat, n.toNat, rowCollides s (drwBit s n) 8),
        (.drw16 x y, planeRank s 4 * 32, 16, rowCollides s (drw16Bit s) 16)],
      p.1.legalIn s.variant = true → p.2.1 = 0 ∨ IndexRange p.2.1 s → Completes p.1 s fun t =>
        ∀ rows, rows = (List.range p.2.2.1).countP (p.2.2.2 (getV s x) (getV s y)) →
          rows ≤ 16 ∧ (getV t 0xF#4).toNat = if s.profile.getLsbD 7 = true then rows else if 0 < rows then 1 else 0

/-- Self-inverse (R130): drawing the same sprite again with the same I, V[x], V[y], PLANE_MASK, RES, PROFILE and memory
restores every plane. -/
def Obligations.DrawTwiceRestoresThePlanes : Prop :=
  ∀ (x y : RegIdx) (n : Nibble) (s t u w : State), ∀ i ∈ [Instr.drw x y n, .drw16 x y],
    exec i s = .next t → t.fault = none →
    u.planes = t.planes → u.index = s.index → getV u x = getV s x → getV u y = getV s y →
    u.planeMask = s.planeMask → u.res = s.res → u.profile = s.profile → u.mem = s.mem →
    exec i u = .next w → w.fault = none → w.planes = s.planes

/-- Composition (R112): plane k supplies bit k of the palette index. -/
def Obligations.PaletteIndexIsThePlanesBits : Prop :=
  ∀ (s : State) (x y : Nat), (paletteIndex s x y).toNat =
    (Plane.get s.planes[0] x y).toNat + 2 * (Plane.get s.planes[1] x y).toNat +
      4 * (Plane.get s.planes[2] x y).toNat + 8 * (Plane.get s.planes[3] x y).toNat

/-! ### Timers, keypad, audio -/

/-- LD_VX_DT, LD_DT, LD_ST (R133, R134, R135). -/
def Obligations.TimerRegisters : Prop :=
  ∀ (x : RegIdx) (s : State), Room 2 s →
    (Completes (.ldVxDt x) s fun t => t = { s with v := t.v, pc := s.pc + 2#16 } ∧
      ∀ z, getV t z = if z = x then s.dt else getV s z) ∧
    exec (.ldDt x) s = .next { s with dt := getV s x, pc := s.pc + 2#16 } ∧
    exec (.ldSt x) s = .next { s with st := getV s x, pc := s.pc + 2#16 }

/-- LD_VX_K (R137): PENDING is KEYWAIT(x) with PC at a + 2, and then no instruction runs while it lasts. -/
def Obligations.KeyWaitSuspends : Prop :=
  ∀ (x : RegIdx) (s : State), Room 2 s → s.fault = none → s.halted = false →
    Completes (.ldVxK x) s fun t => t = { s with pending := .keyWait x, pc := s.pc + 2#16 } ∧
      step t = .next t ∧ stepResult t t = .ok .waitingKey

/-- AUDIO and LD_PITCH (R140, R141): PATTERN takes the 16 bytes at I, PITCH takes V[x]; XOCHIP only. -/
def Obligations.AudioRegisters : Prop :=
  ∀ (x : RegIdx) (s : State),
    (s.variant = .xochip → Room 2 s → IndexRange 16 s → Completes .audio s fun t =>
      t = { s with pattern := t.pattern, pc := s.pc + 2#16 } ∧
        ∀ k : Fin 16, t.pattern[k] = readByte s (s.index.toNat + k)) ∧
    (s.variant = .xochip → ¬ IndexRange 16 s → Raises .audio s .addressFault (some (lowestOutside s))) ∧
    (s.variant = .xochip → Room 2 s → exec (.ldPitch x) s = .next { s with pitch := getV s x, pc := s.pc + 2#16 }) ∧
    (s.variant ≠ .xochip → Raises .audio s .illegalInstruction none ∧ Raises (.ldPitch x) s .illegalInstruction none)

/-- tick(n) (R131): both timers down by n, floored at zero; n ≥ 1 ends a vblank wait; nothing else changes. -/
def Obligations.TickCountsDown : Prop :=
  ∀ (n : Nat) (s : State),
    tick n s = { s with dt := (tick n s).dt, st := (tick n s).st, pending := (tick n s).pending } ∧
    (tick n s).dt.toNat = max 0 (s.dt.toNat - n) ∧ (tick n s).st.toNat = max 0 (s.st.toNat - n) ∧
    (tick n s).pending = (if 1 ≤ n ∧ s.pending = .vblankWait then .none else s.pending) ∧ tick 0 s = s

/-- set-key (R136): the flag of k; and exactly when a key wait is latched and the call makes the profile's edge, V[r]
takes k and the wait ends. Nothing else changes. -/
def Obligations.SetKeyResolvesTheWait : Prop :=
  ∀ (k : Nibble) (pressed : Bool) (s t : State), t = setKey k pressed s →
    t = { s with keys := t.keys, v := t.v, pending := t.pending } ∧
    (∀ j, keyDown t j = if j = k then pressed else keyDown s j) ∧
    (∀ r, s.pending = .keyWait r →
      pressed = (!s.profile.getLsbD 6) → keyDown s k = s.profile.getLsbD 6 →
        t.pending = .none ∧ ∀ z, getV t z = if z = r then BitVec.ofNat 8 k.toNat else getV s z) ∧
    (((∀ r, s.pending ≠ .keyWait r) ∨ pressed ≠ (!s.profile.getLsbD 6) ∨ keyDown s k ≠ s.profile.getLsbD 6) →
        t.pending = s.pending ∧ t.v = s.v)

/-! ### Construction, load, invariants -/

/-- new (R156): InvalidProfile exactly when the Variant code is 3 or a parameter is out of range. -/
def Obligations.NewRefusesExactlyBadParameters : Prop :=
  ∀ (code : BitVec 2) (profile : Byte) (p : Params) (small big : List Byte),
    new code profile p small big = .fault .invalidProfile ↔
      (code = 3#2 ∨ (code = 2#2 ∧ (p.xoMemSize < 4096 ∨ 65536 < p.xoMemSize)) ∨ p.stackDepth < 1 ∨
        small.length ≠ 80 ∨ big.length ≠ 160)

/-- The reset state (R157, R158): what a valid `new` leaves in every piece of state the spec names, MEM byte by byte. -/
def Obligations.NewLeavesTheResetValues : Prop :=
  ∀ (code : BitVec 2) (profile : Byte) (p : Params) (small big : List Byte) (s : State),
    new code profile p small big = .next s →
      variantOfCode code = some s.variant ∧ s.profile = profile ∧ (∀ z, getV s z = 0#8) ∧ s.index = 0#16 ∧
      s.pc = 0x200#16 ∧ sp s = 0 ∧ s.dt = 0#8 ∧ s.st = 0#8 ∧ s.res = .lores ∧ s.planeMask = 1#4 ∧
      (∀ (k : Fin 4) (x y : Nat), Plane.get s.planes[k] x y = false) ∧
      (∀ k : Fin 16, s.pattern[k] = 0#8) ∧ s.pitch = 64#8 ∧ (∀ z, getRpl s z = 0#8) ∧ (∀ k, keyDown s k = false) ∧
      s.pending = .none ∧ s.halted = false ∧ s.fault = none ∧ s.loaded = false ∧ s.started = false ∧
      (∀ a, readByte s a = if a < 0x50 then small.getD a 0#8 else if a < 0xF0 then big.getD (a - 0x50) 0#8 else 0#8)

/-- load (R160): refused when LOADED or STARTED is set; ProgramTooLarge when the program does not fit; else the bytes
from 0x200, no other byte, and LOADED. -/
def Obligations.LoadWritesTheProgram : Prop :=
  ∀ (bytes : List Byte) (s : State), Memory.wf s.mem = true →
    ((s.loaded = true ∨ s.started = true) → load bytes s = .refused .loadOutsideProtocol) ∧
    (s.loaded = false → s.started = false → memSize s < 0x200 + bytes.length → load bytes s = .fault .programTooLarge) ∧
    (s.loaded = false → s.started = false → 0x200 + bytes.length ≤ memSize s → ∃ t, load bytes s = .next t ∧
      t = { s with mem := t.mem, loaded := true } ∧
      (∀ k, k < bytes.length → readByte t (0x200 + k) = bytes.getD k 0#8) ∧
      ∀ a, (a < 0x200 ∨ 0x200 + bytes.length ≤ a) → readByte t a = readByte s a)

/-- The invariant holds in the reset state. -/
def Obligations.ResetMeetsTheInvariant : Prop := Inv State.reset

/-- Every step keeps the invariant: MEM canonical and in range, SP within STACK_DEPTH, RES and PLANE_MASK within the
Variant's ceilings, pixels outside the window and planes past the ceiling 0, what no instruction reaches at its reset
value, at most one stop state, and a fault record that names PC (R18, R24..R33). -/
def Obligations.StepKeepsTheInvariant : Prop :=
  ∀ s t : State, Inv s → step s = .next t → Inv t

/-- Every host call beside `execute-one` that has a transition keeps the invariant; and what `new` makes meets it, since
`new` reads nothing of the machine before it. -/
def Obligations.EveryHostCallKeepsTheInvariant : Prop :=
  ∀ (c : HostCall) (s t : State), c ≠ .executeOne → Inv s → transact c s = .next t → Inv t

/-- No step writes VARIANT, PROFILE, the parameters, KEYS or LOADED (R20, R23, R30, R34), and every step outside a stop
state leaves STARTED set. -/
def Obligations.StepLeavesReadOnlyState : Prop :=
  ∀ s t : State, step s = .next t →
    t.variant = s.variant ∧ t.profile = s.profile ∧ t.params = s.params ∧ t.keys = s.keys ∧ t.loaded = s.loaded ∧
      (stopped s = false → t.started = true)

/-- Each special register has its own writers (R15, R17, R18, R19, R24, R25, R26, R28, R29, R31, R32): an instruction
outside the list the rule gives leaves the register as it was. -/
def Obligations.SpecialRegistersHaveTheirWriters : Prop :=
  ∀ (i : Instr) (s t : State), exec i s = .next t →
    (getV t 0xF#4 ≠ getV s 0xF#4 → mayWriteVF s i = true) ∧
    (t.dt ≠ s.dt → ∃ x, i = .ldDt x) ∧
    (t.st ≠ s.st → ∃ x, i = .ldSt x) ∧
    (t.pitch ≠ s.pitch → ∃ x, i = .ldPitch x) ∧
    (t.pattern ≠ s.pattern → i = .audio) ∧
    (t.rpl ≠ s.rpl → ∃ x, i = .saveFlags x) ∧
    (t.planeMask ≠ s.planeMask → ∃ n, i = .plane n) ∧
    (t.res ≠ s.res → i = .low ∨ i = .high) ∧
    (t.halted ≠ s.halted → i = .exit) ∧
    (t.stack ≠ s.stack → (∃ nnn, i = .call nnn) ∨ i = .ret) ∧
    (t.pending ≠ s.pending → (∃ x, i = .ldVxK x) ∨ (∃ x y n, i = .drw x y n) ∨ ∃ x y, i = .drw16 x y) ∧
    (t.mem ≠ s.mem → (∃ x, i = .bcd x) ∨ (∃ x, i = .store x) ∨ ∃ x y, i = .saveRange x y) ∧
    (t.planes ≠ s.planes → i = .cls ∨ (∃ n, i = .scd n) ∨ (∃ n, i = .scu n) ∨ i = .scr ∨ i = .scl ∨ i = .low ∨
      i = .high ∨ (∃ x y n, i = .drw x y n) ∨ ∃ x y, i = .drw16 x y) ∧
    (t.index ≠ s.index → (∃ nnn, i = .ldI nnn) ∨ (∃ nnnn, i = .ldILong nnnn) ∨ (∃ x, i = .addI x) ∨ (∃ x, i = .ldF x) ∨
      (∃ x, i = .ldHf x) ∨ (∃ x, i = .store x) ∨ ∃ x, i = .load x)

/-- The quirks multiplexer (R71): changing one bit of PROFILE changes nothing but the instructions R21 names for it. -/
def Obligations.QuirkBitReachesOnlyItsInstructions : Prop :=
  ∀ (b : Nat) (i : Instr) (s t : State) (profile : Byte), readsProfileBit b i = false →
    (∀ j, j ≠ b → profile.getLsbD j = s.profile.getLsbD j) → exec i s = .next t →
      exec i { s with profile } = .next { t with profile }
end

