-- ==== Sys2Proof/Laws/State.lean ====
section
/-! SUPPORT. What each update of the state leaves in each field: true by rfl, so that no proof unfolds an update. -/

namespace Sys2Proof.Machine

/-! ### setV -/

@[simp] theorem setV_variant (s : State) (x : RegIdx) (b : Byte) : (setV s x b).variant = s.variant := rfl
@[simp] theorem setV_profile (s : State) (x : RegIdx) (b : Byte) : (setV s x b).profile = s.profile := rfl
@[simp] theorem setV_params (s : State) (x : RegIdx) (b : Byte) : (setV s x b).params = s.params := rfl
@[simp] theorem setV_v (s : State) (x : RegIdx) (b : Byte) : (setV s x b).v = s.v.set x.toNat b x.isLt := rfl
@[simp] theorem setV_index (s : State) (x : RegIdx) (b : Byte) : (setV s x b).index = s.index := rfl
@[simp] theorem setV_pc (s : State) (x : RegIdx) (b : Byte) : (setV s x b).pc = s.pc := rfl
@[simp] theorem setV_stack (s : State) (x : RegIdx) (b : Byte) : (setV s x b).stack = s.stack := rfl
@[simp] theorem setV_dt (s : State) (x : RegIdx) (b : Byte) : (setV s x b).dt = s.dt := rfl
@[simp] theorem setV_st (s : State) (x : RegIdx) (b : Byte) : (setV s x b).st = s.st := rfl
@[simp] theorem setV_res (s : State) (x : RegIdx) (b : Byte) : (setV s x b).res = s.res := rfl
@[simp] theorem setV_planeMask (s : State) (x : RegIdx) (b : Byte) : (setV s x b).planeMask = s.planeMask := rfl
@[simp] theorem setV_planes (s : State) (x : RegIdx) (b : Byte) : (setV s x b).planes = s.planes := rfl
@[simp] theorem setV_mem (s : State) (x : RegIdx) (b : Byte) : (setV s x b).mem = s.mem := rfl
@[simp] theorem setV_rpl (s : State) (x : RegIdx) (b : Byte) : (setV s x b).rpl = s.rpl := rfl
@[simp] theorem setV_pattern (s : State) (x : RegIdx) (b : Byte) : (setV s x b).pattern = s.pattern := rfl
@[simp] theorem setV_pitch (s : State) (x : RegIdx) (b : Byte) : (setV s x b).pitch = s.pitch := rfl
@[simp] theorem setV_keys (s : State) (x : RegIdx) (b : Byte) : (setV s x b).keys = s.keys := rfl
@[simp] theorem setV_pending (s : State) (x : RegIdx) (b : Byte) : (setV s x b).pending = s.pending := rfl
@[simp] theorem setV_halted (s : State) (x : RegIdx) (b : Byte) : (setV s x b).halted = s.halted := rfl
@[simp] theorem setV_fault (s : State) (x : RegIdx) (b : Byte) : (setV s x b).fault = s.fault := rfl
@[simp] theorem setV_loaded (s : State) (x : RegIdx) (b : Byte) : (setV s x b).loaded = s.loaded := rfl
@[simp] theorem setV_started (s : State) (x : RegIdx) (b : Byte) : (setV s x b).started = s.started := rfl
@[simp] theorem setV_draws (s : State) (x : RegIdx) (b : Byte) : (setV s x b).draws = s.draws := rfl

/-! ### setVF -/

@[simp] theorem setVF_variant (s : State) (b : Byte) : (setVF s b).variant = s.variant := rfl
@[simp] theorem setVF_profile (s : State) (b : Byte) : (setVF s b).profile = s.profile := rfl
@[simp] theorem setVF_params (s : State) (b : Byte) : (setVF s b).params = s.params := rfl
@[simp] theorem setVF_v (s : State) (b : Byte) : (setVF s b).v = s.v.set 15 b := rfl
@[simp] theorem setVF_index (s : State) (b : Byte) : (setVF s b).index = s.index := rfl
@[simp] theorem setVF_pc (s : State) (b : Byte) : (setVF s b).pc = s.pc := rfl
@[simp] theorem setVF_stack (s : State) (b : Byte) : (setVF s b).stack = s.stack := rfl
@[simp] theorem setVF_dt (s : State) (b : Byte) : (setVF s b).dt = s.dt := rfl
@[simp] theorem setVF_st (s : State) (b : Byte) : (setVF s b).st = s.st := rfl
@[simp] theorem setVF_res (s : State) (b : Byte) : (setVF s b).res = s.res := rfl
@[simp] theorem setVF_planeMask (s : State) (b : Byte) : (setVF s b).planeMask = s.planeMask := rfl
@[simp] theorem setVF_planes (s : State) (b : Byte) : (setVF s b).planes = s.planes := rfl
@[simp] theorem setVF_mem (s : State) (b : Byte) : (setVF s b).mem = s.mem := rfl
@[simp] theorem setVF_rpl (s : State) (b : Byte) : (setVF s b).rpl = s.rpl := rfl
@[simp] theorem setVF_pattern (s : State) (b : Byte) : (setVF s b).pattern = s.pattern := rfl
@[simp] theorem setVF_pitch (s : State) (b : Byte) : (setVF s b).pitch = s.pitch := rfl
@[simp] theorem setVF_keys (s : State) (b : Byte) : (setVF s b).keys = s.keys := rfl
@[simp] theorem setVF_pending (s : State) (b : Byte) : (setVF s b).pending = s.pending := rfl
@[simp] theorem setVF_halted (s : State) (b : Byte) : (setVF s b).halted = s.halted := rfl
@[simp] theorem setVF_fault (s : State) (b : Byte) : (setVF s b).fault = s.fault := rfl
@[simp] theorem setVF_loaded (s : State) (b : Byte) : (setVF s b).loaded = s.loaded := rfl
@[simp] theorem setVF_started (s : State) (b : Byte) : (setVF s b).started = s.started := rfl
@[simp] theorem setVF_draws (s : State) (b : Byte) : (setVF s b).draws = s.draws := rfl

/-! ### setRpl -/

@[simp] theorem setRpl_variant (s : State) (z : RegIdx) (b : Byte) : (setRpl s z b).variant = s.variant := rfl
@[simp] theorem setRpl_profile (s : State) (z : RegIdx) (b : Byte) : (setRpl s z b).profile = s.profile := rfl
@[simp] theorem setRpl_params (s : State) (z : RegIdx) (b : Byte) : (setRpl s z b).params = s.params := rfl
@[simp] theorem setRpl_v (s : State) (z : RegIdx) (b : Byte) : (setRpl s z b).v = s.v := rfl
@[simp] theorem setRpl_index (s : State) (z : RegIdx) (b : Byte) : (setRpl s z b).index = s.index := rfl
@[simp] theorem setRpl_pc (s : State) (z : RegIdx) (b : Byte) : (setRpl s z b).pc = s.pc := rfl
@[simp] theorem setRpl_stack (s : State) (z : RegIdx) (b : Byte) : (setRpl s z b).stack = s.stack := rfl
@[simp] theorem setRpl_dt (s : State) (z : RegIdx) (b : Byte) : (setRpl s z b).dt = s.dt := rfl
@[simp] theorem setRpl_st (s : State) (z : RegIdx) (b : Byte) : (setRpl s z b).st = s.st := rfl
@[simp] theorem setRpl_res (s : State) (z : RegIdx) (b : Byte) : (setRpl s z b).res = s.res := rfl
@[simp] theorem setRpl_planeMask (s : State) (z : RegIdx) (b : Byte) : (setRpl s z b).planeMask = s.planeMask := rfl
@[simp] theorem setRpl_planes (s : State) (z : RegIdx) (b : Byte) : (setRpl s z b).planes = s.planes := rfl
@[simp] theorem setRpl_mem (s : State) (z : RegIdx) (b : Byte) : (setRpl s z b).mem = s.mem := rfl
@[simp] theorem setRpl_rpl (s : State) (z : RegIdx) (b : Byte) : (setRpl s z b).rpl = s.rpl.set z.toNat b z.isLt := rfl
@[simp] theorem setRpl_pattern (s : State) (z : RegIdx) (b : Byte) : (setRpl s z b).pattern = s.pattern := rfl
@[simp] theorem setRpl_pitch (s : State) (z : RegIdx) (b : Byte) : (setRpl s z b).pitch = s.pitch := rfl
@[simp] theorem setRpl_keys (s : State) (z : RegIdx) (b : Byte) : (setRpl s z b).keys = s.keys := rfl
@[simp] theorem setRpl_pending (s : State) (z : RegIdx) (b : Byte) : (setRpl s z b).pending = s.pending := rfl
@[simp] theorem setRpl_halted (s : State) (z : RegIdx) (b : Byte) : (setRpl s z b).halted = s.halted := rfl
@[simp] theorem setRpl_fault (s : State) (z : RegIdx) (b : Byte) : (setRpl s z b).fault = s.fault := rfl
@[simp] theorem setRpl_loaded (s : State) (z : RegIdx) (b : Byte) : (setRpl s z b).loaded = s.loaded := rfl
@[simp] theorem setRpl_started (s : State) (z : RegIdx) (b : Byte) : (setRpl s z b).started = s.started := rfl
@[simp] theorem setRpl_draws (s : State) (z : RegIdx) (b : Byte) : (setRpl s z b).draws = s.draws := rfl

/-! ### writeByte -/

@[simp] theorem writeByte_variant (s : State) (a : Nat) (b : Byte) : (writeByte s a b).variant = s.variant := rfl
@[simp] theorem writeByte_profile (s : State) (a : Nat) (b : Byte) : (writeByte s a b).profile = s.profile := rfl
@[simp] theorem writeByte_params (s : State) (a : Nat) (b : Byte) : (writeByte s a b).params = s.params := rfl
@[simp] theorem writeByte_v (s : State) (a : Nat) (b : Byte) : (writeByte s a b).v = s.v := rfl
@[simp] theorem writeByte_index (s : State) (a : Nat) (b : Byte) : (writeByte s a b).index = s.index := rfl
@[simp] theorem writeByte_pc (s : State) (a : Nat) (b : Byte) : (writeByte s a b).pc = s.pc := rfl
@[simp] theorem writeByte_stack (s : State) (a : Nat) (b : Byte) : (writeByte s a b).stack = s.stack := rfl
@[simp] theorem writeByte_dt (s : State) (a : Nat) (b : Byte) : (writeByte s a b).dt = s.dt := rfl
@[simp] theorem writeByte_st (s : State) (a : Nat) (b : Byte) : (writeByte s a b).st = s.st := rfl
@[simp] theorem writeByte_res (s : State) (a : Nat) (b : Byte) : (writeByte s a b).res = s.res := rfl
@[simp] theorem writeByte_planeMask (s : State) (a : Nat) (b : Byte) : (writeByte s a b).planeMask = s.planeMask := rfl
@[simp] theorem writeByte_planes (s : State) (a : Nat) (b : Byte) : (writeByte s a b).planes = s.planes := rfl
@[simp] theorem writeByte_mem (s : State) (a : Nat) (b : Byte) : (writeByte s a b).mem = Memory.write s.mem a b := rfl
@[simp] theorem writeByte_rpl (s : State) (a : Nat) (b : Byte) : (writeByte s a b).rpl = s.rpl := rfl
@[simp] theorem writeByte_pattern (s : State) (a : Nat) (b : Byte) : (writeByte s a b).pattern = s.pattern := rfl
@[simp] theorem writeByte_pitch (s : State) (a : Nat) (b : Byte) : (writeByte s a b).pitch = s.pitch := rfl
@[simp] theorem writeByte_keys (s : State) (a : Nat) (b : Byte) : (writeByte s a b).keys = s.keys := rfl
@[simp] theorem writeByte_pending (s : State) (a : Nat) (b : Byte) : (writeByte s a b).pending = s.pending := rfl
@[simp] theorem writeByte_halted (s : State) (a : Nat) (b : Byte) : (writeByte s a b).halted = s.halted := rfl
@[simp] theorem writeByte_fault (s : State) (a : Nat) (b : Byte) : (writeByte s a b).fault = s.fault := rfl
@[simp] theorem writeByte_loaded (s : State) (a : Nat) (b : Byte) : (writeByte s a b).loaded = s.loaded := rfl
@[simp] theorem writeByte_started (s : State) (a : Nat) (b : Byte) : (writeByte s a b).started = s.started := rfl
@[simp] theorem writeByte_draws (s : State) (a : Nat) (b : Byte) : (writeByte s a b).draws = s.draws := rfl

/-! ### raise -/

@[simp] theorem raise_variant (s : State) (k : FaultKind) (w : Option Word) (a : Option Nat) : (raise s k w a).variant = s.variant := rfl
@[simp] theorem raise_profile (s : State) (k : FaultKind) (w : Option Word) (a : Option Nat) : (raise s k w a).profile = s.profile := rfl
@[simp] theorem raise_params (s : State) (k : FaultKind) (w : Option Word) (a : Option Nat) : (raise s k w a).params = s.params := rfl
@[simp] theorem raise_v (s : State) (k : FaultKind) (w : Option Word) (a : Option Nat) : (raise s k w a).v = s.v := rfl
@[simp] theorem raise_index (s : State) (k : FaultKind) (w : Option Word) (a : Option Nat) : (raise s k w a).index = s.index := rfl
@[simp] theorem raise_pc (s : State) (k : FaultKind) (w : Option Word) (a : Option Nat) : (raise s k w a).pc = s.pc := rfl
@[simp] theorem raise_stack (s : State) (k : FaultKind) (w : Option Word) (a : Option Nat) : (raise s k w a).stack = s.stack := rfl
@[simp] theorem raise_dt (s : State) (k : FaultKind) (w : Option Word) (a : Option Nat) : (raise s k w a).dt = s.dt := rfl
@[simp] theorem raise_st (s : State) (k : FaultKind) (w : Option Word) (a : Option Nat) : (raise s k w a).st = s.st := rfl
@[simp] theorem raise_res (s : State) (k : FaultKind) (w : Option Word) (a : Option Nat) : (raise s k w a).res = s.res := rfl
@[simp] theorem raise_planeMask (s : State) (k : FaultKind) (w : Option Word) (a : Option Nat) : (raise s k w a).planeMask = s.planeMask := rfl
@[simp] theorem raise_planes (s : State) (k : FaultKind) (w : Option Word) (a : Option Nat) : (raise s k w a).planes = s.planes := rfl
@[simp] theorem raise_mem (s : State) (k : FaultKind) (w : Option Word) (a : Option Nat) : (raise s k w a).mem = s.mem := rfl
@[simp] theorem raise_rpl (s : State) (k : FaultKind) (w : Option Word) (a : Option Nat) : (raise s k w a).rpl = s.rpl := rfl
@[simp] theorem raise_pattern (s : State) (k : FaultKind) (w : Option Word) (a : Option Nat) : (raise s k w a).pattern = s.pattern := rfl
@[simp] theorem raise_pitch (s : State) (k : FaultKind) (w : Option Word) (a : Option Nat) : (raise s k w a).pitch = s.pitch := rfl
@[simp] theorem raise_keys (s : State) (k : FaultKind) (w : Option Word) (a : Option Nat) : (raise s k w a).keys = s.keys := rfl
@[simp] theorem raise_pending (s : State) (k : FaultKind) (w : Option Word) (a : Option Nat) : (raise s k w a).pending = s.pending := rfl
@[simp] theorem raise_halted (s : State) (k : FaultKind) (w : Option Word) (a : Option Nat) : (raise s k w a).halted = s.halted := rfl
@[simp] theorem raise_fault (s : State) (k : FaultKind) (w : Option Word) (a : Option Nat) : (raise s k w a).fault = some { kind := k, pc := s.pc, word := w, addr := a } := rfl
@[simp] theorem raise_loaded (s : State) (k : FaultKind) (w : Option Word) (a : Option Nat) : (raise s k w a).loaded = s.loaded := rfl
@[simp] theorem raise_started (s : State) (k : FaultKind) (w : Option Word) (a : Option Nat) : (raise s k w a).started = s.started := rfl
@[simp] theorem raise_draws (s : State) (k : FaultKind) (w : Option Word) (a : Option Nat) : (raise s k w a).draws = s.draws := rfl

/-! ### onSelected -/

@[simp] theorem onSelected_variant (s : State) (f : Plane → Plane) : (onSelected s f).variant = s.variant := rfl
@[simp] theorem onSelected_profile (s : State) (f : Plane → Plane) : (onSelected s f).profile = s.profile := rfl
@[simp] theorem onSelected_params (s : State) (f : Plane → Plane) : (onSelected s f).params = s.params := rfl
@[simp] theorem onSelected_v (s : State) (f : Plane → Plane) : (onSelected s f).v = s.v := rfl
@[simp] theorem onSelected_index (s : State) (f : Plane → Plane) : (onSelected s f).index = s.index := rfl
@[simp] theorem onSelected_pc (s : State) (f : Plane → Plane) : (onSelected s f).pc = s.pc := rfl
@[simp] theorem onSelected_stack (s : State) (f : Plane → Plane) : (onSelected s f).stack = s.stack := rfl
@[simp] theorem onSelected_dt (s : State) (f : Plane → Plane) : (onSelected s f).dt = s.dt := rfl
@[simp] theorem onSelected_st (s : State) (f : Plane → Plane) : (onSelected s f).st = s.st := rfl
@[simp] theorem onSelected_res (s : State) (f : Plane → Plane) : (onSelected s f).res = s.res := rfl
@[simp] theorem onSelected_planeMask (s : State) (f : Plane → Plane) : (onSelected s f).planeMask = s.planeMask := rfl
@[simp] theorem onSelected_mem (s : State) (f : Plane → Plane) : (onSelected s f).mem = s.mem := rfl
@[simp] theorem onSelected_rpl (s : State) (f : Plane → Plane) : (onSelected s f).rpl = s.rpl := rfl
@[simp] theorem onSelected_pattern (s : State) (f : Plane → Plane) : (onSelected s f).pattern = s.pattern := rfl
@[simp] theorem onSelected_pitch (s : State) (f : Plane → Plane) : (onSelected s f).pitch = s.pitch := rfl
@[simp] theorem onSelected_keys (s : State) (f : Plane → Plane) : (onSelected s f).keys = s.keys := rfl
@[simp] theorem onSelected_pending (s : State) (f : Plane → Plane) : (onSelected s f).pending = s.pending := rfl
@[simp] theorem onSelected_halted (s : State) (f : Plane → Plane) : (onSelected s f).halted = s.halted := rfl
@[simp] theorem onSelected_fault (s : State) (f : Plane → Plane) : (onSelected s f).fault = s.fault := rfl
@[simp] theorem onSelected_loaded (s : State) (f : Plane → Plane) : (onSelected s f).loaded = s.loaded := rfl
@[simp] theorem onSelected_started (s : State) (f : Plane → Plane) : (onSelected s f).started = s.started := rfl
@[simp] theorem onSelected_draws (s : State) (f : Plane → Plane) : (onSelected s f).draws = s.draws := rfl

/-! ### setResolution -/

@[simp] theorem setResolution_variant (s : State) (m : Resolution) : (setResolution s m).variant = s.variant := rfl
@[simp] theorem setResolution_profile (s : State) (m : Resolution) : (setResolution s m).profile = s.profile := rfl
@[simp] theorem setResolution_params (s : State) (m : Resolution) : (setResolution s m).params = s.params := rfl
@[simp] theorem setResolution_v (s : State) (m : Resolution) : (setResolution s m).v = s.v := rfl
@[simp] theorem setResolution_index (s : State) (m : Resolution) : (setResolution s m).index = s.index := rfl
@[simp] theorem setResolution_pc (s : State) (m : Resolution) : (setResolution s m).pc = s.pc := rfl
@[simp] theorem setResolution_stack (s : State) (m : Resolution) : (setResolution s m).stack = s.stack := rfl
@[simp] theorem setResolution_dt (s : State) (m : Resolution) : (setResolution s m).dt = s.dt := rfl
@[simp] theorem setResolution_st (s : State) (m : Resolution) : (setResolution s m).st = s.st := rfl
@[simp] theorem setResolution_res (s : State) (m : Resolution) : (setResolution s m).res = m := rfl
@[simp] theorem setResolution_planeMask (s : State) (m : Resolution) : (setResolution s m).planeMask = s.planeMask := rfl
@[simp] theorem setResolution_planes (s : State) (m : Resolution) : (setResolution s m).planes = Vector.replicate 4 Plane.clear := rfl
@[simp] theorem setResolution_mem (s : State) (m : Resolution) : (setResolution s m).mem = s.mem := rfl
@[simp] theorem setResolution_rpl (s : State) (m : Resolution) : (setResolution s m).rpl = s.rpl := rfl
@[simp] theorem setResolution_pattern (s : State) (m : Resolution) : (setResolution s m).pattern = s.pattern := rfl
@[simp] theorem setResolution_pitch (s : State) (m : Resolution) : (setResolution s m).pitch = s.pitch := rfl
@[simp] theorem setResolution_keys (s : State) (m : Resolution) : (setResolution s m).keys = s.keys := rfl
@[simp] theorem setResolution_pending (s : State) (m : Resolution) : (setResolution s m).pending = s.pending := rfl
@[simp] theorem setResolution_halted (s : State) (m : Resolution) : (setResolution s m).halted = s.halted := rfl
@[simp] theorem setResolution_fault (s : State) (m : Resolution) : (setResolution s m).fault = s.fault := rfl
@[simp] theorem setResolution_loaded (s : State) (m : Resolution) : (setResolution s m).loaded = s.loaded := rfl
@[simp] theorem setResolution_started (s : State) (m : Resolution) : (setResolution s m).started = s.started := rfl
@[simp] theorem setResolution_draws (s : State) (m : Resolution) : (setResolution s m).draws = s.draws := rfl

/-! ### setKeyFlag -/

@[simp] theorem setKeyFlag_variant (s : State) (k : Nibble) (b : Bool) : (setKeyFlag s k b).variant = s.variant := rfl
@[simp] theorem setKeyFlag_profile (s : State) (k : Nibble) (b : Bool) : (setKeyFlag s k b).profile = s.profile := rfl
@[simp] theorem setKeyFlag_params (s : State) (k : Nibble) (b : Bool) : (setKeyFlag s k b).params = s.params := rfl
@[simp] theorem setKeyFlag_v (s : State) (k : Nibble) (b : Bool) : (setKeyFlag s k b).v = s.v := rfl
@[simp] theorem setKeyFlag_index (s : State) (k : Nibble) (b : Bool) : (setKeyFlag s k b).index = s.index := rfl
@[simp] theorem setKeyFlag_pc (s : State) (k : Nibble) (b : Bool) : (setKeyFlag s k b).pc = s.pc := rfl
@[simp] theorem setKeyFlag_stack (s : State) (k : Nibble) (b : Bool) : (setKeyFlag s k b).stack = s.stack := rfl
@[simp] theorem setKeyFlag_dt (s : State) (k : Nibble) (b : Bool) : (setKeyFlag s k b).dt = s.dt := rfl
@[simp] theorem setKeyFlag_st (s : State) (k : Nibble) (b : Bool) : (setKeyFlag s k b).st = s.st := rfl
@[simp] theorem setKeyFlag_res (s : State) (k : Nibble) (b : Bool) : (setKeyFlag s k b).res = s.res := rfl
@[simp] theorem setKeyFlag_planeMask (s : State) (k : Nibble) (b : Bool) : (setKeyFlag s k b).planeMask = s.planeMask := rfl
@[simp] theorem setKeyFlag_planes (s : State) (k : Nibble) (b : Bool) : (setKeyFlag s k b).planes = s.planes := rfl
@[simp] theorem setKeyFlag_mem (s : State) (k : Nibble) (b : Bool) : (setKeyFlag s k b).mem = s.mem := rfl
@[simp] theorem setKeyFlag_rpl (s : State) (k : Nibble) (b : Bool) : (setKeyFlag s k b).rpl = s.rpl := rfl
@[simp] theorem setKeyFlag_pattern (s : State) (k : Nibble) (b : Bool) : (setKeyFlag s k b).pattern = s.pattern := rfl
@[simp] theorem setKeyFlag_pitch (s : State) (k : Nibble) (b : Bool) : (setKeyFlag s k b).pitch = s.pitch := rfl
@[simp] theorem setKeyFlag_pending (s : State) (k : Nibble) (b : Bool) : (setKeyFlag s k b).pending = s.pending := rfl
@[simp] theorem setKeyFlag_halted (s : State) (k : Nibble) (b : Bool) : (setKeyFlag s k b).halted = s.halted := rfl
@[simp] theorem setKeyFlag_fault (s : State) (k : Nibble) (b : Bool) : (setKeyFlag s k b).fault = s.fault := rfl
@[simp] theorem setKeyFlag_loaded (s : State) (k : Nibble) (b : Bool) : (setKeyFlag s k b).loaded = s.loaded := rfl
@[simp] theorem setKeyFlag_started (s : State) (k : Nibble) (b : Bool) : (setKeyFlag s k b).started = s.started := rfl
@[simp] theorem setKeyFlag_draws (s : State) (k : Nibble) (b : Bool) : (setKeyFlag s k b).draws = s.draws := rfl

/-! ### tick -/

@[simp] theorem tick_variant (n : Nat) (s : State) : (tick n s).variant = s.variant := rfl
@[simp] theorem tick_profile (n : Nat) (s : State) : (tick n s).profile = s.profile := rfl
@[simp] theorem tick_params (n : Nat) (s : State) : (tick n s).params = s.params := rfl
@[simp] theorem tick_v (n : Nat) (s : State) : (tick n s).v = s.v := rfl
@[simp] theorem tick_index (n : Nat) (s : State) : (tick n s).index = s.index := rfl
@[simp] theorem tick_pc (n : Nat) (s : State) : (tick n s).pc = s.pc := rfl
@[simp] theorem tick_stack (n : Nat) (s : State) : (tick n s).stack = s.stack := rfl
@[simp] theorem tick_dt (n : Nat) (s : State) : (tick n s).dt = BitVec.ofNat 8 (s.dt.toNat - n) := rfl
@[simp] theorem tick_st (n : Nat) (s : State) : (tick n s).st = BitVec.ofNat 8 (s.st.toNat - n) := rfl
@[simp] theorem tick_res (n : Nat) (s : State) : (tick n s).res = s.res := rfl
@[simp] theorem tick_planeMask (n : Nat) (s : State) : (tick n s).planeMask = s.planeMask := rfl
@[simp] theorem tick_planes (n : Nat) (s : State) : (tick n s).planes = s.planes := rfl
@[simp] theorem tick_mem (n : Nat) (s : State) : (tick n s).mem = s.mem := rfl
@[simp] theorem tick_rpl (n : Nat) (s : State) : (tick n s).rpl = s.rpl := rfl
@[simp] theorem tick_pattern (n : Nat) (s : State) : (tick n s).pattern = s.pattern := rfl
@[simp] theorem tick_pitch (n : Nat) (s : State) : (tick n s).pitch = s.pitch := rfl
@[simp] theorem tick_keys (n : Nat) (s : State) : (tick n s).keys = s.keys := rfl
@[simp] theorem tick_halted (n : Nat) (s : State) : (tick n s).halted = s.halted := rfl
@[simp] theorem tick_fault (n : Nat) (s : State) : (tick n s).fault = s.fault := rfl
@[simp] theorem tick_loaded (n : Nat) (s : State) : (tick n s).loaded = s.loaded := rfl
@[simp] theorem tick_started (n : Nat) (s : State) : (tick n s).started = s.started := rfl
@[simp] theorem tick_draws (n : Nat) (s : State) : (tick n s).draws = s.draws := rfl

/-! ### drawSprite -/

@[simp] theorem drawSprite_variant (s : State) (z : SpriteSize) (cx cy : Byte) : (drawSprite s z cx cy).variant = s.variant := rfl
@[simp] theorem drawSprite_profile (s : State) (z : SpriteSize) (cx cy : Byte) : (drawSprite s z cx cy).profile = s.profile := rfl
@[simp] theorem drawSprite_params (s : State) (z : SpriteSize) (cx cy : Byte) : (drawSprite s z cx cy).params = s.params := rfl
@[simp] theorem drawSprite_v (s : State) (z : SpriteSize) (cx cy : Byte) : (drawSprite s z cx cy).v = s.v.set 15 (collisionFlag s (collidedRows s z cx cy)) := rfl
@[simp] theorem drawSprite_index (s : State) (z : SpriteSize) (cx cy : Byte) : (drawSprite s z cx cy).index = s.index := rfl
@[simp] theorem drawSprite_pc (s : State) (z : SpriteSize) (cx cy : Byte) : (drawSprite s z cx cy).pc = s.pc := rfl
@[simp] theorem drawSprite_stack (s : State) (z : SpriteSize) (cx cy : Byte) : (drawSprite s z cx cy).stack = s.stack := rfl
@[simp] theorem drawSprite_dt (s : State) (z : SpriteSize) (cx cy : Byte) : (drawSprite s z cx cy).dt = s.dt := rfl
@[simp] theorem drawSprite_st (s : State) (z : SpriteSize) (cx cy : Byte) : (drawSprite s z cx cy).st = s.st := rfl
@[simp] theorem drawSprite_res (s : State) (z : SpriteSize) (cx cy : Byte) : (drawSprite s z cx cy).res = s.res := rfl
@[simp] theorem drawSprite_planeMask (s : State) (z : SpriteSize) (cx cy : Byte) : (drawSprite s z cx cy).planeMask = s.planeMask := rfl
@[simp] theorem drawSprite_planes (s : State) (z : SpriteSize) (cx cy : Byte) : (drawSprite s z cx cy).planes = drawnPlanes s z cx cy := rfl
@[simp] theorem drawSprite_mem (s : State) (z : SpriteSize) (cx cy : Byte) : (drawSprite s z cx cy).mem = s.mem := rfl
@[simp] theorem drawSprite_rpl (s : State) (z : SpriteSize) (cx cy : Byte) : (drawSprite s z cx cy).rpl = s.rpl := rfl
@[simp] theorem drawSprite_pattern (s : State) (z : SpriteSize) (cx cy : Byte) : (drawSprite s z cx cy).pattern = s.pattern := rfl
@[simp] theorem drawSprite_pitch (s : State) (z : SpriteSize) (cx cy : Byte) : (drawSprite s z cx cy).pitch = s.pitch := rfl
@[simp] theorem drawSprite_keys (s : State) (z : SpriteSize) (cx cy : Byte) : (drawSprite s z cx cy).keys = s.keys := rfl
@[simp] theorem drawSprite_halted (s : State) (z : SpriteSize) (cx cy : Byte) : (drawSprite s z cx cy).halted = s.halted := rfl
@[simp] theorem drawSprite_fault (s : State) (z : SpriteSize) (cx cy : Byte) : (drawSprite s z cx cy).fault = s.fault := rfl
@[simp] theorem drawSprite_loaded (s : State) (z : SpriteSize) (cx cy : Byte) : (drawSprite s z cx cy).loaded = s.loaded := rfl
@[simp] theorem drawSprite_started (s : State) (z : SpriteSize) (cx cy : Byte) : (drawSprite s z cx cy).started = s.started := rfl
@[simp] theorem drawSprite_draws (s : State) (z : SpriteSize) (cx cy : Byte) : (drawSprite s z cx cy).draws = s.draws := rfl

end Sys2Proof.Machine
end

