-- ==== Sys2Proof/Laws/Memory.lean ====
section
/-! SUPPORT. Memory: a read after a write, the canonical form, and what the run operations do. -/

namespace Sys2Proof.Machine

/-! ### One cell -/

theorem Memory.lookup_put (m : List Host.Cell) (a c : Nat) (b : Byte) :
    Memory.lookup (Memory.put m a b) c = if c = a then some b else Memory.lookup m c := by
  induction m with
  | nil => simp [Memory.put, Memory.lookup, eq_comm]
  | cons d m ih =>
    simp only [Memory.put]
    split
    · by_cases hc : c = a
      · simp [Memory.lookup, hc]
      · simp [Memory.lookup, hc, Ne.symm hc]
    · split
      · next h => subst h; by_cases hc : c = d.1 <;> simp [Memory.lookup, hc, eq_comm]
      · next h1 h2 =>
        by_cases hc : c = a
        · subst hc; simp [Memory.lookup, ih, Ne.symm h2]
        · simp [Memory.lookup, ih, hc]

/-- An address below every listed one is not listed. -/
theorem Memory.lookup_eq_none_of_risesFrom {m : List Host.Cell} {a c : Nat}
    (h : Memory.risesFrom a m = true) (hc : c ≤ a) : Memory.lookup m c = none := by
  induction m generalizing a with
  | nil => rfl
  | cons d m ih =>
    simp only [Memory.risesFrom, Bool.and_eq_true, decide_eq_true_eq] at h
    have hd : d.1 ≠ c := by omega
    simpa [Memory.lookup, hd] using ih h.2 (by omega)

theorem Memory.rises_tail {d : Host.Cell} {m : List Host.Cell} (h : Memory.rises (d :: m) = true) :
    Memory.rises m = true := by
  cases m with
  | nil => rfl
  | cons e m => simp_all [Memory.rises, Memory.risesFrom]

theorem Memory.lookup_erase {m : List Host.Cell} (h : Memory.rises m = true) (a c : Nat) :
    Memory.lookup (Memory.erase m a) c = if c = a then none else Memory.lookup m c := by
  induction m with
  | nil => simp [Memory.erase, Memory.lookup]
  | cons d m ih =>
    by_cases hd : d.1 = a
    · by_cases hc : c = a
      · subst hc; subst hd
        simpa [Memory.erase, Memory.lookup] using
          Memory.lookup_eq_none_of_risesFrom (m := m) (a := d.1) h (Nat.le_refl _)
      · have hdc : d.1 ≠ c := by omega
        simp [Memory.erase, Memory.lookup, hd, hc, Ne.symm hc]
    · by_cases hc : c = a
      · subst hc; simp [Memory.erase, Memory.lookup, hd, ih (Memory.rises_tail h)]
      · simp [Memory.erase, Memory.lookup, hd, hc, ih (Memory.rises_tail h)]

/-- The law of one write: the address written reads as the byte, every other address as before (R45). -/
theorem Memory.read_write {m : List Host.Cell} (h : Memory.rises m = true) (a c : Nat) (b : Byte) :
    Memory.read (Memory.write m a b) c = if c = a then b else Memory.read m c := by
  simp only [Memory.read, Memory.write]
  split
  · next hb =>
    rw [Memory.lookup_erase h]
    by_cases hc : c = a <;> simp [hc, ← hb]
  · rw [Memory.lookup_put]
    by_cases hc : c = a <;> simp [hc]

/-! ### The canonical form -/

theorem Memory.risesFrom_mono {m : List Host.Cell} {a b : Nat} (h : Memory.risesFrom b m = true) (hab : a ≤ b) :
    Memory.risesFrom a m = true := by
  cases m with
  | nil => rfl
  | cons d m =>
    simp only [Memory.risesFrom, Bool.and_eq_true, decide_eq_true_eq] at h ⊢
    exact ⟨by omega, h.2⟩

theorem Memory.risesFrom_put {m : List Host.Cell} {l a : Nat} {b : Byte} (h : Memory.risesFrom l m = true)
    (hl : l < a) : Memory.risesFrom l (Memory.put m a b) = true := by
  induction m generalizing l with
  | nil => simp [Memory.put, Memory.risesFrom, hl]
  | cons d m ih =>
    simp only [Memory.risesFrom, Bool.and_eq_true, decide_eq_true_eq] at h
    simp only [Memory.put]
    split
    · next hlt => simp [Memory.risesFrom, hl, hlt, h.2]
    · split
      · next heq => subst heq; simp [Memory.risesFrom, hl, h.2]
      · next hge hne =>
        simp only [Memory.risesFrom, Bool.and_eq_true, decide_eq_true_eq]
        exact ⟨h.1, ih h.2 (by omega)⟩

theorem Memory.risesFrom_erase {m : List Host.Cell} {l : Nat} (a : Nat) (h : Memory.risesFrom l m = true) :
    Memory.risesFrom l (Memory.erase m a) = true := by
  induction m generalizing l with
  | nil => rfl
  | cons d m ih =>
    simp only [Memory.risesFrom, Bool.and_eq_true, decide_eq_true_eq] at h
    simp only [Memory.erase]
    split
    · exact Memory.risesFrom_mono h.2 (by omega)
    · simp [Memory.risesFrom, h.1, ih h.2]

theorem Memory.rises_of_risesFrom {m : List Host.Cell} {l : Nat} (h : Memory.risesFrom l m = true) :
    Memory.rises m = true := by
  cases m with
  | nil => rfl
  | cons d m => simp_all [Memory.rises, Memory.risesFrom]

theorem Memory.rises_put {m : List Host.Cell} (h : Memory.rises m = true) (a : Nat) (b : Byte) :
    Memory.rises (Memory.put m a b) = true := by
  cases m with
  | nil => rfl
  | cons d m =>
    simp only [Memory.put]
    split
    · next hlt => simp only [Memory.rises] at h; simp [Memory.rises, Memory.risesFrom, hlt, h]
    · split
      · next heq => subst heq; exact h
      · exact Memory.risesFrom_put (m := m) (l := d.1) h (by omega)

theorem Memory.rises_erase {m : List Host.Cell} (h : Memory.rises m = true) (a : Nat) :
    Memory.rises (Memory.erase m a) = true := by
  cases m with
  | nil => rfl
  | cons d m =>
    simp only [Memory.erase]
    split
    · exact Memory.rises_tail h
    · exact Memory.risesFrom_erase (m := m) (l := d.1) a h

theorem Memory.mem_put {m : List Host.Cell} {a : Nat} {b : Byte} {c : Host.Cell} (h : c ∈ Memory.put m a b) :
    c = (a, b) ∨ c ∈ m := by
  induction m with
  | nil => simpa [Memory.put] using h
  | cons d m ih =>
    simp only [Memory.put] at h
    split at h
    · simpa using h
    · split at h
      · simp only [List.mem_cons] at h ⊢; tauto
      · simp only [List.mem_cons] at h ⊢
        rcases h with h | h
        · exact .inr (.inl h)
        · exact (ih h).imp id .inr

theorem Memory.mem_erase {m : List Host.Cell} {a : Nat} {c : Host.Cell} (h : c ∈ Memory.erase m a) : c ∈ m := by
  induction m with
  | nil => exact h
  | cons d m ih =>
    simp only [Memory.erase] at h
    split at h
    · exact List.mem_cons_of_mem _ h
    · simp only [List.mem_cons] at h ⊢; exact h.imp id ih

/-- What a write can list. -/
theorem Memory.mem_write {m : List Host.Cell} {a : Nat} {b : Byte} {c : Host.Cell} (h : c ∈ Memory.write m a b) :
    c = (a, b) ∧ b ≠ Memory.unlisted a ∨ c ∈ m := by
  simp only [Memory.write] at h
  split at h
  · exact .inr (Memory.mem_erase h)
  · next hb => exact (Memory.mem_put h).imp (fun h => ⟨h, hb⟩) id

theorem Memory.wf_rises {m : List Host.Cell} (h : Memory.wf m = true) : Memory.rises m = true := by
  simp only [Memory.wf, Bool.and_eq_true] at h; exact h.1

/-- A write keeps the canonical form. -/
theorem Memory.wf_write {m : List Host.Cell} (h : Memory.wf m = true) (a : Nat) (b : Byte) :
    Memory.wf (Memory.write m a b) = true := by
  simp only [Memory.wf, Bool.and_eq_true, List.all_eq_true, bne_iff_ne] at h ⊢
  refine ⟨?_, fun c hc => ?_⟩
  · simp only [Memory.write]
    split
    · exact Memory.rises_erase h.1 a
    · exact Memory.rises_put h.1 a b
  · rcases Memory.mem_write hc with ⟨rfl, hb⟩ | hc
    · exact hb
    · exact h.2 c hc

theorem reset_memory_wf : Memory.wf State.reset.mem = true := by decide

/-! ### Bytes of a state -/

theorem readByte_writeByte {s : State} (h : Memory.rises s.mem = true) (a c : Nat) (b : Byte) :
    readByte (writeByte s a b) c = if c = a then b else readByte s c := Memory.read_write h a c b

/-- Reading depends on MEM alone. -/
theorem readByte_congr {s t : State} (h : s.mem = t.mem) (a : Nat) : readByte s a = readByte t a := by
  simp [readByte, h]

/-- A run of writes changes MEM alone. -/
theorem writeRun_eq (s : State) (a : Nat) (bs : List Byte) :
    writeRun s a bs = { s with mem := (writeRun s a bs).mem } := by
  induction bs generalizing s a with
  | nil => rfl
  | cons b bs ih => rw [writeRun, ih (writeByte s a b)]; rfl

theorem writeRun_wf {s : State} (h : Memory.wf s.mem = true) (a : Nat) (bs : List Byte) :
    Memory.wf (writeRun s a bs).mem = true := by
  induction bs generalizing s a with
  | nil => exact h
  | cons b bs ih => exact ih (s := writeByte s a b) (Memory.wf_write h a b) _

theorem writeRun_mem {s : State} {a : Nat} {bs : List Byte} {c : Host.Cell} (h : c ∈ (writeRun s a bs).mem) :
    c ∈ s.mem ∨ a ≤ c.1 ∧ c.1 < a + bs.length := by
  induction bs generalizing s a with
  | nil => exact .inl h
  | cons b bs ih =>
    simp only [List.length_cons]
    rcases ih (s := writeByte s a b) h with h | h
    · rcases Memory.mem_write h with ⟨rfl, -⟩ | h
      · right; simp
      · exact .inl h
    · right; omega

/-- What a run of writes leaves at each address: the run's byte inside it, the old byte outside it. -/
theorem readByte_writeRun {s : State} (h : Memory.wf s.mem = true) (a : Nat) (bs : List Byte) (c : Nat) :
    readByte (writeRun s a bs) c =
      if a ≤ c ∧ c < a + bs.length then bs.getD (c - a) 0#8 else readByte s c := by
  induction bs generalizing s a with
  | nil => simp [writeRun]
  | cons b bs ih =>
    rw [writeRun, ih (s := writeByte s a b) (Memory.wf_write h a b),
      readByte_writeByte (Memory.wf_rises h), List.length_cons]
    by_cases hin : a + 1 ≤ c ∧ c < a + 1 + bs.length
    · obtain ⟨k, rfl⟩ : ∃ k, c = a + 1 + k := ⟨c - (a + 1), by omega⟩
      have h2 : a ≤ a + 1 + k ∧ a + 1 + k < a + (bs.length + 1) := by omega
      have e1 : a + 1 + k - (a + 1) = k := by omega
      have e2 : a + 1 + k - a = k + 1 := by omega
      rw [if_pos hin, if_pos h2, e1, e2]; simp
    · rw [if_neg hin]
      by_cases hc : c = a
      · subst hc; simp
      · rw [if_neg hc, if_neg (by omega)]

/-! ### The range check (R9, R42) -/

theorem checkRange_eq_none {s : State} {a n : Nat} : checkRange s a n = none ↔ n = 0 ∨ a + n ≤ memSize s := by
  simp only [checkRange]; split <;> simp_all

/-- The address reported is the lowest of the run at or past MEM_SIZE. -/
theorem checkRange_eq_some {s : State} {a n bad : Nat} :
    checkRange s a n = some bad ↔
      (a ≤ bad ∧ bad < a + n ∧ memSize s ≤ bad) ∧ ∀ c, a ≤ c → c < bad → c < memSize s := by
  simp only [checkRange]
  split
  · simp only [reduceCtorEq, false_iff]; omega
  · simp only [Option.some.injEq]
    constructor
    · rintro rfl; exact ⟨by omega, fun c h1 h2 => by omega⟩
    · rintro ⟨⟨h1, h2, h3⟩, h4⟩
      by_contra hne
      have := h4 (max a (memSize s)) (by omega) (by omega)
      omega

end Sys2Proof.Machine
end

