-- ==== Sys2Proof/Laws/Registers.lean ====
section
/-! SUPPORT. Registers: reads after writes, and what the run operations over registers do. -/

namespace Sys2Proof.Machine

/-! ### One register -/

@[simp] theorem getV_setV (s : State) (x y : RegIdx) (b : Byte) :
    getV (setV s x b) y = if y = x then b else getV s y := by
  by_cases h : y = x
  · subst h; simp [getV, setV]
  · have hne : x.toNat ≠ y.toNat := fun e => h (BitVec.eq_of_toNat_eq e.symm)
    simp [getV, setV, hne, h]

@[simp] theorem getV_setVF (s : State) (y : RegIdx) (b : Byte) :
    getV (setVF s b) y = if y = 0xF#4 then b else getV s y := getV_setV s 0xF#4 y b

/-- Reading V depends on the register file alone. -/
theorem getV_congr {s t : State} (h : s.v = t.v) (x : RegIdx) : getV s x = getV t x := by simp [getV, h]

@[simp] theorem getRpl_setRpl (s : State) (x y : RegIdx) (b : Byte) :
    getRpl (setRpl s x b) y = if y = x then b else getRpl s y := by
  by_cases h : y = x
  · subst h; simp [getRpl, setRpl]
  · have hne : x.toNat ≠ y.toNat := fun e => h (BitVec.eq_of_toNat_eq e.symm)
    simp [getRpl, setRpl, hne, h]

theorem keyDown_setKeyFlag (s : State) (k j : Nibble) (b : Bool) :
    keyDown (setKeyFlag s k b) j = if j = k then b else keyDown s j := by
  have hj : j.toNat < 16 := j.isLt
  by_cases h : j = k
  · subst h; cases b <;> simp [keyDown, setKeyFlag, hj]
  · have hne : k.toNat ≠ j.toNat := fun e => h (BitVec.eq_of_toNat_eq e.symm)
    cases b <;> simp [keyDown, setKeyFlag, hj, hne.symm, h]

/-! ### Runs of registers -/

theorem loadRegs_eq (s : State) (a : Nat) (xs : List RegIdx) :
    loadRegs s a xs = { s with v := (loadRegs s a xs).v } := by
  induction xs generalizing s a with
  | nil => rfl
  | cons x xs ih => rw [loadRegs, ih (setV s x _)]; rfl

theorem saveRpl_eq (s : State) (zs : List RegIdx) : saveRpl s zs = { s with rpl := (saveRpl s zs).rpl } := by
  induction zs generalizing s with
  | nil => rfl
  | cons z zs ih => rw [saveRpl, ih (setRpl s z _)]; rfl

theorem loadRpl_eq (s : State) (zs : List RegIdx) : loadRpl s zs = { s with v := (loadRpl s zs).v } := by
  induction zs generalizing s with
  | nil => rfl
  | cons z zs ih => rw [loadRpl, ih (setV s z _)]; rfl

/-- A register that a load does not name keeps its value. -/
theorem getV_loadRegs_of_notMem {s : State} {a : Nat} {xs : List RegIdx} {y : RegIdx} (h : y ∉ xs) :
    getV (loadRegs s a xs) y = getV s y := by
  induction xs generalizing s a with
  | nil => rfl
  | cons x xs ih =>
    simp only [List.mem_cons, not_or] at h
    simp [loadRegs, ih h.2, h.1]

/-- The k-th register of a load without repeats takes the byte k past its start. -/
theorem getV_loadRegs_getElem {s : State} {a : Nat} {xs : List RegIdx} (h : xs.Nodup) (k : Nat)
    (hk : k < xs.length) : getV (loadRegs s a xs) xs[k] = readByte s (a + k) := by
  induction xs generalizing s a k with
  | nil => simp at hk
  | cons x xs ih =>
    rw [List.nodup_cons] at h
    cases k with
    | zero => simp [loadRegs, getV_loadRegs_of_notMem h.1]
    | succ k =>
      have := ih (s := setV s x (readByte s a)) (a := a + 1) h.2 k (by simpa using hk)
      simpa [loadRegs, readByte, Nat.add_assoc, Nat.add_comm 1] using this

theorem getRpl_saveRpl (s : State) (zs : List RegIdx) (y : RegIdx) :
    getRpl (saveRpl s zs) y = if y ∈ zs then getV s y else getRpl s y := by
  induction zs generalizing s with
  | nil => simp [saveRpl]
  | cons z zs ih =>
    rw [saveRpl, ih]
    by_cases hz : y = z
    · subst hz; simp [getV]
    · simp [hz, getV]

theorem getV_loadRpl (s : State) (zs : List RegIdx) (y : RegIdx) :
    getV (loadRpl s zs) y = if y ∈ zs then getRpl s y else getV s y := by
  induction zs generalizing s with
  | nil => simp [loadRpl]
  | cons z zs ih =>
    rw [loadRpl, ih]
    by_cases hz : y = z
    · subst hz; simp [getRpl]
    · simp [hz, getRpl]

/-! ### Which registers a run names -/

theorem length_runTo (x : RegIdx) : (runTo x).length = x.toNat + 1 := by simp [runTo]

theorem getElem_runTo (x : RegIdx) (k : Nat) (h : k < (runTo x).length) : (runTo x)[k] = BitVec.ofNat 4 k := by
  simp [runTo]

theorem mem_runTo {x z : RegIdx} : z ∈ runTo x ↔ z ≤ x := by
  revert x z; decide

theorem nodup_runTo (x : RegIdx) : (runTo x).Nodup := by
  revert x; decide

theorem length_rangeRegs (x y : RegIdx) : (rangeRegs x y).length = rangeDistance x y + 1 := by simp [rangeRegs]

theorem getElem_rangeRegs (x y : RegIdx) (k : Nat) (h : k < (rangeRegs x y).length) :
    (rangeRegs x y)[k] = rangeReg x y k := by simp [rangeRegs]

/-- A register range names the registers between its ends, both included. -/
theorem mem_rangeRegs {x y z : RegIdx} : z ∈ rangeRegs x y ↔ (x ≤ z ∧ z ≤ y) ∨ (y ≤ z ∧ z ≤ x) := by
  revert x y z; decide

theorem nodup_rangeRegs (x y : RegIdx) : (rangeRegs x y).Nodup := by
  revert x y; decide

end Sys2Proof.Machine
end

