-- ==== Sys2Proof/Laws/Ops.lean ====
section
/-! SUPPORT. What the shared operations of an instruction can do: the commit, the guards, the skip, the fetch. -/

namespace Sys2Proof.Machine

/-! ### Commit (R68, R69) -/

theorem commit_of_lt {i : Instr} {s s' : State} {pc : Nat} (h : pc < 0x10000) :
    commit i s s' pc = .next { s' with pc := BitVec.ofNat 16 pc } := by
  simp [commit, Nat.not_le.mpr h]

theorem commit_of_le {i : Instr} {s s' : State} {pc : Nat} (h : 0x10000 ≤ pc) :
    commit i s s' pc = .next (raise s .addressFault (some (firstWord i)) (some pc)) := by
  simp [commit, addressFault, h]

/-- Everything a commit can do: it commits, or it raises the fault of the PC range check. -/
theorem commit_cases (i : Instr) (s s' : State) (pc : Nat) :
    (pc < 0x10000 ∧ commit i s s' pc = .next { s' with pc := BitVec.ofNat 16 pc }) ∨
      (0x10000 ≤ pc ∧ commit i s s' pc = .next (raise s .addressFault (some (firstWord i)) (some pc))) := by
  rcases Nat.lt_or_ge pc 0x10000 with h | h
  · exact .inl ⟨h, commit_of_lt h⟩
  · exact .inr ⟨h, commit_of_le h⟩

/-- An instruction below the last word commits pc + 2. -/
theorem advance_of_lt {i : Instr} {s s' : State} (h : s.pc.toNat + 2 < 0x10000) :
    advance i s s' = .next { s' with pc := s.pc + 2#16 } := by
  have hpc : BitVec.ofNat 16 (nextPc s) = s.pc + 2#16 := BitVec.eq_of_toNat_eq (by simp [nextPc])
  rw [advance, commit_of_lt (pc := nextPc s) h, hpc]

/-! ### Guards -/

theorem requireLegal_of_legal {i : Instr} {s : State} {k : Host.Outcome State Fault Refusal}
    (h : i.legalIn s.variant = true) : requireLegal i s k = k := by simp [requireLegal, h]

theorem requireLegal_of_illegal {i : Instr} {s : State} {k : Host.Outcome State Fault Refusal}
    (h : i.legalIn s.variant = false) : requireLegal i s k = illegalInstruction i s := by simp [requireLegal, h]

/-- Everything the Variant guard can do. -/
theorem requireLegal_cases (i : Instr) (s : State) (k : Host.Outcome State Fault Refusal) :
    (i.legalIn s.variant = true ∧ requireLegal i s k = k) ∨
      (i.legalIn s.variant = false ∧ requireLegal i s k = illegalInstruction i s) := by
  cases h : i.legalIn s.variant
  · exact .inr ⟨rfl, requireLegal_of_illegal h⟩
  · exact .inl ⟨rfl, requireLegal_of_legal h⟩

theorem requireRange_of_none {i : Instr} {s : State} {a n : Nat} {k : Host.Outcome State Fault Refusal}
    (h : checkRange s a n = none) : requireRange i s a n k = k := by simp [requireRange, h]

theorem requireRange_of_some {i : Instr} {s : State} {a n bad : Nat} {k : Host.Outcome State Fault Refusal}
    (h : checkRange s a n = some bad) : requireRange i s a n k = addressFault i s bad := by simp [requireRange, h]

/-- Everything the range guard can do. -/
theorem requireRange_cases (i : Instr) (s : State) (a n : Nat) (k : Host.Outcome State Fault Refusal) :
    (checkRange s a n = none ∧ requireRange i s a n k = k) ∨
      ∃ bad, checkRange s a n = some bad ∧ requireRange i s a n k = addressFault i s bad := by
  cases h : checkRange s a n with
  | none => exact .inl ⟨rfl, requireRange_of_none h⟩
  | some bad => exact .inr ⟨bad, rfl, requireRange_of_some h⟩

/-! ### Taking a fault (R149) -/

/-- A fault record is determined by its parts and PC; taking it twice is taking the second. -/
@[simp] theorem raise_raise (s : State) (k k' : FaultKind) (w w' : Option Word) (a a' : Option Nat) :
    raise (raise s k w a) k' w' a' = raise s k' w' a' := rfl

/-! ### Fetch (R64, R65, R67) -/

theorem fetchWord_of_le {s : State} {a : Nat} (h : a + 2 ≤ memSize s) : fetchWord s a = .ok (readWord s a) := by
  simp [fetchWord, checkRange_eq_none.mpr (.inr h)]

theorem fetchWord_of_lt {s : State} {a : Nat} (h : memSize s < a + 2) :
    fetchWord s a = .error (max a (memSize s)) := by
  have : ¬ a + 2 ≤ memSize s := by omega
  simp [fetchWord, checkRange, this]

/-- A stop state is left as it is (R62). -/
theorem step_of_stopped {s : State} (h : stopped s = true) : step s = .next s := by simp [step, h]

/-- Outside a stop state, a step is a cycle with STARTED set (R62). -/
theorem step_of_running {s : State} (h : stopped s = false) : step s = cycle { s with started := true } := by
  simp [step, h]

end Sys2Proof.Machine
end

