-- ==== Sys2Proof/Laws/Compositor.lean ====
section
/-! SUPPORT. Planes: the pixels the compositor's parts read and write. -/

namespace Sys2Proof.Machine

/-- Two planes with the same pixels are the same plane. -/
theorem Plane.ext {p q : Plane} (h : ∀ x y, x < 128 → y < 64 → Plane.get p x y = Plane.get q x y) : p = q := by
  apply Vector.ext
  intro y hy
  apply BitVec.eq_of_getLsbD_eq
  intro x hx
  simpa [Plane.get, hy] using h x y hx hy

theorem Plane.get_eq_row (p : Plane) (x y : Nat) : Plane.get p x y = (Plane.row p y).getLsbD x := by
  simp only [Plane.get, Plane.row]; split <;> simp

@[simp] theorem Plane.get_clear (x y : Nat) : Plane.get Plane.clear x y = false := by
  simp [Plane.get, Plane.clear]

theorem Plane.get_of_le {p : Plane} {x y : Nat} (h : 128 ≤ x ∨ 64 ≤ y) : Plane.get p x y = false := by
  simp only [Plane.get]
  split
  · rcases h with h | h
    · exact BitVec.getLsbD_of_ge _ _ h
    · omega
  · rfl

/-- Toggling a pixel changes that pixel alone. -/
theorem Plane.get_toggle (p : Plane) (x y u v : Nat) :
    Plane.get (Plane.toggle p x y) u v = (Plane.get p u v ^^ (u = x && v = y && x < 128 && y < 64)) := by
  by_cases hy : y < 64
  · by_cases hv : v < 64
    · by_cases hvy : v = y
      · subst hvy
        by_cases hu : u = x
        · subst hu; simp [Plane.get, Plane.toggle, hy, BitVec.getLsbD_twoPow]
        · simp [Plane.get, Plane.toggle, hy, BitVec.getLsbD_twoPow, hu, Ne.symm hu]
      · simp [Plane.get, Plane.toggle, hy, hv, hvy, Ne.symm hvy]
    · have hvy : v ≠ y := by omega
      simp [Plane.get, hv, hvy]
  · simp [Plane.toggle, hy]

@[simp] theorem getLsbD_columnMask (r : Resolution) (x : Nat) :
    (columnMask (width r)).getLsbD x = decide (x < width r) := by
  have hw : width r ≤ 128 := by cases r <;> decide
  simp only [columnMask, BitVec.getLsbD_ofNat, Nat.testBit_two_pow_sub_one]
  by_cases hx : x < width r
  · simp [hx, show x < 128 by omega]
  · simp [hx]

@[simp] theorem getElem_columnMask (r : Resolution) (x : Nat) (h : x < 128) :
    (columnMask (width r))[x] = decide (x < width r) := by
  rw [← BitVec.getLsbD_eq_getElem, getLsbD_columnMask]

/-- A windowed map sets the pixels of the window and leaves every other one. -/
theorem Plane.get_mapWindow (p : Plane) (r : Resolution) (f : Nat → BitVec 128) (x y : Nat) :
    Plane.get (Plane.mapWindow p r f) x y =
      if x < width r ∧ y < height r then (f y).getLsbD x else Plane.get p x y := by
  have hh : height r ≤ 64 := by cases r <;> decide
  have hw : width r ≤ 128 := by cases r <;> decide
  rcases Nat.lt_or_ge x 128 with hx | hx
  · by_cases hy : y < 64
    · by_cases hyh : y < height r <;> by_cases hxw : x < width r <;>
        simp [Plane.get, Plane.mapWindow, hy, hyh, hxw, hx]
    · have : ¬ y < height r := by omega
      simp [Plane.get, hy, this]
  · rw [Plane.get_of_le (.inl hx), Plane.get_of_le (.inl hx), if_neg (by omega)]

theorem Plane.getLsbD_windowRow (p : Plane) (r : Resolution) (x y : Nat) :
    (Plane.windowRow p r y).getLsbD x = (decide (x < width r ∧ y < height r) && Plane.get p x y) := by
  simp only [Plane.windowRow, Plane.get_eq_row]
  by_cases hy : y < height r
  · by_cases hx : x < width r <;> simp [hx, hy]
  · simp [hy]

/-- An operation on the selected planes, plane by plane. -/
theorem onSelected_plane (s : State) (f : Plane → Plane) (k : Fin 4) :
    (onSelected s f).planes[k] = if s.planeMask.getLsbD k then f s.planes[k] else s.planes[k] := by
  simp [onSelected]

/-- draw-sprite changes no plane that PLANE_MASK does not select. -/
theorem drawnPlanes_of_unselected {s : State} {z : SpriteSize} {cx cy : Byte} {k : Fin 4}
    (h : s.planeMask.getLsbD k = false) : (drawnPlanes s z cx cy)[k] = s.planes[k] := by
  simp only [drawnPlanes, Fin.getElem_fin, Vector.getElem_ofFn, drawPlane, h]
  rfl

/-! ### Blits -/

/-- The pixel a dot falls on. -/
def Dot.pos (d : Dot) : Nat × Nat := (d.px, d.py)

/-- Blitting dots that fall on distinct pixels toggles exactly those pixels. -/
theorem get_blit {p : Plane} {hits : List Nat} {ds : List Dot} (h : (ds.map Dot.pos).Nodup) (u v : Nat) :
    Plane.get (blit p hits ds).1 u v = (Plane.get p u v ^^ (decide ((u, v) ∈ ds.map Dot.pos) && u < 128 && v < 64)) := by
  induction ds generalizing p hits with
  | nil => simp [blit]
  | cons d ds ih =>
    rw [List.map_cons, List.nodup_cons] at h
    rw [blit, ih h.2, Plane.get_toggle]
    by_cases hd : (u, v) = Dot.pos d
    · obtain ⟨rfl, rfl⟩ : u = d.px ∧ v = d.py := by simpa [Dot.pos] using hd
      have : (d.px, d.py) ∉ ds.map Dot.pos := h.1
      rw [List.map_cons]
      simp [this, Dot.pos]
    · have : ¬ (u = d.px ∧ v = d.py) := by simpa [Dot.pos] using hd
      rw [List.map_cons]
      have e : ((u, v) ∈ Dot.pos d :: ds.map Dot.pos) ↔ (u, v) ∈ ds.map Dot.pos := by simp only [List.mem_cons, hd, false_or]
      have e2 : (decide (u = d.px) && decide (v = d.py)) = false := by simpa using this
      simp only [e2, Bool.false_and, Bool.xor_false, e]

/-- The rows a blit of dots on distinct pixels collects: those with a dot on a pixel set before. -/
theorem mem_hits_blit {p : Plane} {hits : List Nat} {ds : List Dot} (h : (ds.map Dot.pos).Nodup) (r : Nat) :
    r ∈ (blit p hits ds).2 ↔ r ∈ hits ∨ ∃ d ∈ ds, d.row = r ∧ Plane.get p d.px d.py = true := by
  induction ds generalizing p hits with
  | nil => simp [blit]
  | cons d ds ih =>
    rw [List.map_cons, List.nodup_cons] at h
    have same : ∀ e ∈ ds, Plane.get (Plane.toggle p d.px d.py) e.px e.py = Plane.get p e.px e.py := by
      intro e he
      have : ¬ (e.px = d.px ∧ e.py = d.py) := by
        rintro ⟨h1, h2⟩; exact h.1 (List.mem_map.mpr ⟨e, he, by simp [Dot.pos, h1, h2]⟩)
      have e2 : (decide (e.px = d.px) && decide (e.py = d.py)) = false := by simpa using this
      simp only [Plane.get_toggle, e2, Bool.false_and, Bool.xor_false]
    have tail : (∃ e ∈ ds, e.row = r ∧ Plane.get (Plane.toggle p d.px d.py) e.px e.py = true) ↔
        ∃ e ∈ ds, e.row = r ∧ Plane.get p e.px e.py = true :=
      exists_congr fun e => and_congr_right fun he => by rw [same e he]
    rw [blit, ih h.2, tail]
    rw [List.exists_mem_cons_iff]
    by_cases hg : Plane.get p d.px d.py = true
    · rw [if_pos hg, List.mem_cons, and_iff_left hg, eq_comm (a := r), or_comm (a := d.row = r), or_assoc]
    · rw [if_neg hg, or_iff_right (a := _ ∧ _) fun h => hg h.2]

/-- The dots of a sprite: its set bits that the clip quirk keeps. -/
theorem mem_spriteDots {s : State} {base rows cols x0 y0 : Nat} {d : Dot} :
    d ∈ spriteDots s base rows cols x0 y0 ↔
      ∃ r < rows, ∃ c < cols, spriteBit s base cols r c = true ∧ placeDot s x0 y0 r c = some d := by
  simp [spriteDots]

theorem placeDot_eq_some {s : State} {x0 y0 r c : Nat} {d : Dot} (h : placeDot s x0 y0 r c = some d) :
    d.row = r ∧ d.px = (x0 + c) % width s.res ∧ d.py = (y0 + r) % height s.res := by
  simp only [placeDot] at h
  split at h
  · cases h
  · cases h; exact ⟨rfl, rfl, rfl⟩

theorem add_mod_inj {a i j w : Nat} (hi : i < w) (hj : j < w) (h : (a + i) % w = (a + j) % w) : i = j := by
  have h' : a + i ≡ a + j [MOD w] := h
  have := Nat.ModEq.add_left_cancel' a h'
  rwa [Nat.ModEq, Nat.mod_eq_of_lt hi, Nat.mod_eq_of_lt hj] at this

/-- The dots of one sprite fall on distinct pixels: it is no larger than the window (R130). -/
theorem nodup_spriteDots (s : State) (base rows cols x0 y0 : Nat) (hr : rows ≤ height s.res) (hc : cols ≤ width s.res) :
    ((spriteDots s base rows cols x0 y0).map Dot.pos).Nodup := by
  have dist : ∀ {r r' c c' : Nat} {d e : Dot}, r < rows → r' < rows → c < cols → c' < cols →
      placeDot s x0 y0 r c = some d → placeDot s x0 y0 r' c' = some e → Dot.pos d = Dot.pos e → r = r' ∧ c = c' := by
    intro r r' c c' d e h1 h2 h3 h4 p1 p2 h
    obtain ⟨-, a2, a3⟩ := placeDot_eq_some p1
    obtain ⟨-, b2, b3⟩ := placeDot_eq_some p2
    obtain ⟨hx, hy⟩ : d.px = e.px ∧ d.py = e.py := by simpa [Dot.pos] using h
    exact ⟨add_mod_inj (a := y0) (w := height s.res) (by omega) (by omega) (by rw [← a3, ← b3, hy]),
      add_mod_inj (a := x0) (w := width s.res) (by omega) (by omega) (by rw [← a2, ← b2, hx])⟩
  have inv : ∀ {r c : Nat} {d : Dot}, (if spriteBit s base cols r c then placeDot s x0 y0 r c else none) = some d →
      placeDot s x0 y0 r c = some d := by
    intro r c d h; split at h
    · exact h
    · cases h
  rw [List.Nodup, List.pairwise_map, spriteDots, List.pairwise_flatMap]
  refine ⟨fun r hr1 => ?_, ?_⟩
  · rw [List.pairwise_filterMap]
    refine List.pairwise_lt_range.imp_of_mem fun {c c'} h1 h2 hlt d hd e he h => ?_
    have := (dist (List.mem_range.mp hr1) (List.mem_range.mp hr1) (List.mem_range.mp h1) (List.mem_range.mp h2) (inv hd) (inv he) h).2
    omega
  · refine List.pairwise_lt_range.imp_of_mem fun {r r'} h1 h2 hlt d hd e he h => ?_
    simp only [List.mem_filterMap, List.mem_range] at hd he
    obtain ⟨c, hc1, hd⟩ := hd
    obtain ⟨c', hc2, he⟩ := he
    have := (dist (List.mem_range.mp h1) (List.mem_range.mp h2) hc1 hc2 (inv hd) (inv he) h).1
    omega

/-- The dots draw-sprite puts on plane k. -/
def planeDots (s : State) (z : SpriteSize) (cx cy : Byte) (k : Fin 4) : List Dot :=
  spriteDots s (s.index.toNat + selectedBelow s k * z.bytes) z.rows z.cols
    (cx.toNat % width s.res) (cy.toNat % height s.res)

/-- A dot lies in the window. -/
theorem mem_spriteDots_window {s : State} {base rows cols x0 y0 : Nat} {d : Dot}
    (h : d ∈ spriteDots s base rows cols x0 y0) : d.px < width s.res ∧ d.py < height s.res := by
  obtain ⟨r, -, c, -, -, hp⟩ := mem_spriteDots.mp h
  obtain ⟨-, hx, hy⟩ := placeDot_eq_some hp
  have hw : 0 < width s.res := by cases s.res <;> decide
  have hh : 0 < height s.res := by cases s.res <;> decide
  exact ⟨hx ▸ Nat.mod_lt _ hw, hy ▸ Nat.mod_lt _ hh⟩

/-- What draw-sprite leaves at each pixel of each plane (R117). -/
theorem get_drawnPlanes {s : State} {z : SpriteSize} (hr : z.rows ≤ height s.res) (hc : z.cols ≤ width s.res)
    (cx cy : Byte) (k : Fin 4) (u v : Nat) :
    Plane.get (drawnPlanes s z cx cy)[k] u v =
      (Plane.get s.planes[k] u v ^^ (s.planeMask.getLsbD k && decide ((u, v) ∈ (planeDots s z cx cy k).map Dot.pos))) := by
  simp only [drawnPlanes, Fin.getElem_fin, Vector.getElem_ofFn, drawPlane]
  cases hk : s.planeMask.getLsbD k
  · simp
  · simp only [if_true, Bool.true_and]
    rw [get_blit (nodup_spriteDots s _ _ _ _ _ hr hc)]
    by_cases hm : (u, v) ∈ (planeDots s z cx cy k).map Dot.pos
    · obtain ⟨d, hd, hp⟩ := List.mem_map.mp hm
      obtain ⟨hx, hy⟩ := mem_spriteDots_window hd
      have hw : width s.res ≤ 128 := by cases s.res <;> decide
      have hh : height s.res ≤ 64 := by cases s.res <;> decide
      obtain ⟨rfl, rfl⟩ : d.px = u ∧ d.py = v := by simpa [Dot.pos] using hp
      have h1 : d.px < 128 := by omega
      have h2 : d.py < 64 := by omega
      simp only [planeDots] at hm
      simp only [planeDots, hm, h1, h2, decide_true, Bool.and_true]
    · simp only [planeDots] at hm
      simp only [planeDots, hm, decide_false, Bool.false_and]

/-- Which rows collide in a plane (R117). -/
theorem mem_drawPlane_hits {s : State} {z : SpriteSize} (hr : z.rows ≤ height s.res) (hc : z.cols ≤ width s.res)
    (cx cy : Byte) (k : Fin 4) (r : Nat) :
    r ∈ (drawPlane s z cx cy k).2 ↔ s.planeMask.getLsbD k = true ∧
      ∃ d ∈ planeDots s z cx cy k, d.row = r ∧ Plane.get s.planes[k] d.px d.py = true := by
  simp only [drawPlane]
  cases hk : s.planeMask.getLsbD k
  · simp
  · simp only [if_true]
    rw [mem_hits_blit (nodup_spriteDots s _ _ _ _ _ hr hc)]
    simp [planeDots]

end Sys2Proof.Machine
end

