-- ==== Sys2Proof/Laws/Decode.lean ====
section
/-! SUPPORT. The fields of packed words and of words of bytes, and the decoder read through them. -/

namespace Sys2Proof

/-! ### Fields of a packed word (R50) -/

@[simp] theorem fieldO_pack (o x y n : Nibble) : fieldO (pack o x y n) = o := by
  unfold fieldO pack
  rw [BitVec.extractLsb'_append_eq_of_le (by decide), BitVec.extractLsb'_append_eq_of_le (by decide),
    BitVec.extractLsb'_append_eq_of_le (by decide)]
  simp

@[simp] theorem fieldX_pack (o x y n : Nibble) : fieldX (pack o x y n) = x := by
  unfold fieldX pack
  rw [BitVec.extractLsb'_append_eq_of_le (by decide), BitVec.extractLsb'_append_eq_of_le (by decide),
    BitVec.extractLsb'_append_eq_of_add_le (by decide)]
  simp

@[simp] theorem fieldY_pack (o x y n : Nibble) : fieldY (pack o x y n) = y := by
  unfold fieldY pack
  rw [BitVec.extractLsb'_append_eq_of_le (by decide), BitVec.extractLsb'_append_eq_of_add_le (by decide)]
  simp

@[simp] theorem fieldN_pack (o x y n : Nibble) : fieldN (pack o x y n) = n := by
  unfold fieldN pack
  rw [BitVec.extractLsb'_append_eq_of_add_le (by decide)]
  simp

/-- A word is its four nibbles. -/
@[simp] theorem pack_fields (w : Word) : pack (fieldO w) (fieldX w) (fieldY w) (fieldN w) = w := by
  unfold pack fieldO fieldX fieldY fieldN
  rw [BitVec.extractLsb'_append_extractLsb'_eq_extractLsb' (by decide),
    BitVec.extractLsb'_append_extractLsb'_eq_extractLsb' (by decide),
    BitVec.extractLsb'_append_extractLsb'_eq_extractLsb' (by decide)]
  simp

/-- Masks act nibble by nibble. -/
theorem and_pack (o x y n o' x' y' n' : Nibble) :
    pack o x y n &&& pack o' x' y' n' = pack (o &&& o') (x &&& x') (y &&& y') (n &&& n') := by
  change (o ++ x ++ y ++ n : BitVec (4 + 4 + 4 + 4)) &&& (o' ++ x' ++ y' ++ n') = _
  rw [BitVec.and_append, BitVec.and_append, BitVec.and_append]
  rfl

/-! ### Immediates (R52) -/

@[simp] theorem hiNN_joinNN (y n : Nibble) : hiNN (joinNN y n) = y := by
  unfold hiNN joinNN; rw [BitVec.extractLsb'_append_eq_of_le (by decide)]; simp

@[simp] theorem loNN_joinNN (y n : Nibble) : loNN (joinNN y n) = n := by
  unfold loNN joinNN; rw [BitVec.extractLsb'_append_eq_of_add_le (by decide)]; simp

@[simp] theorem joinNN_hiNN_loNN (nn : Byte) : joinNN (hiNN nn) (loNN nn) = nn := by
  unfold joinNN hiNN loNN; rw [BitVec.extractLsb'_append_extractLsb'_eq_extractLsb' (by decide)]; simp

@[simp] theorem joinNNN_extract (nnn : Addr12) :
    joinNNN (nnn.extractLsb' 8 4) (nnn.extractLsb' 4 4) (nnn.extractLsb' 0 4) = nnn := by
  unfold joinNNN
  rw [BitVec.extractLsb'_append_extractLsb'_eq_extractLsb' (by decide),
    BitVec.extractLsb'_append_extractLsb'_eq_extractLsb' (by decide)]
  simp

@[simp] theorem packNNN_joinNNN (o x y n : Nibble) : packNNN o (joinNNN x y n) = pack o x y n := by
  unfold packNNN joinNNN
  rw [BitVec.extractLsb'_append_eq_of_le (by decide), BitVec.extractLsb'_append_eq_of_le (by decide),
    BitVec.extractLsb'_append_eq_of_le (by decide), BitVec.extractLsb'_append_eq_of_add_le (by decide),
    BitVec.extractLsb'_append_eq_of_add_le (by decide)]
  simp

@[simp] theorem packXNN_joinNN (o x y n : Nibble) : packXNN o x (joinNN y n) = pack o x y n := by simp [packXNN]

/-! ### Bytes of a word (R39) -/

@[simp] theorem wordOfBytes_bytesOfWord (w : Word) : wordOfBytes (w.extractLsb' 8 8) (w.extractLsb' 0 8) = w := by
  unfold wordOfBytes; rw [BitVec.extractLsb'_append_extractLsb'_eq_extractLsb' (by decide)]; simp

@[simp] theorem bytesOfWord_wordOfBytes (hi lo : Byte) : bytesOfWord (wordOfBytes hi lo) = [hi, lo] := by
  unfold bytesOfWord wordOfBytes
  rw [BitVec.extractLsb'_append_eq_of_le (by decide), BitVec.extractLsb'_append_eq_of_add_le (by decide)]
  simp

/-! ### The decoder's parts -/

@[simp] theorem decodeRow_pack (o x y n : Nibble) (nnnn : Word) :
    decodeRow (pack o x y n) nnnn = decodeFields o x y n nnnn := by simp [decodeRow]

/-- What decode gives is the row's instruction, and R54 makes it legal. -/
theorem decode_eq_some {v : Variant} {w nnnn : Word} {i : Instr} :
    decode v w nnnn = some i ↔ decodeRow w nnnn = some i ∧ i.legalIn v = true := by
  simp [decode, Option.filter_eq_some_iff]

/-- FX75 and FX85 are legal in SCHIP for x ≤ 7 and in XOCHIP for every x (R54). -/
theorem legalIn_saveFlags (v : Variant) (x : RegIdx) :
    (Instr.saveFlags x).legalIn v = true ↔ v = .xochip ∨ v = .schip ∧ x ≤ 7#4 := by
  cases v <;> revert x <;> decide

/-- Every instruction is legal in XOCHIP (R54). -/
theorem legalIn_xochip (i : Instr) : i.legalIn .xochip = true := by
  cases i with
  | saveFlags x => exact (decide_eq_true x.isLt : _)
  | loadFlags x => exact (decide_eq_true x.isLt : _)
  | _ => rfl

end Sys2Proof
end

