-- ==== Sys2Proof/Laws/PerInstr.lean ====
section
/-! SUPPORT. One family of statements about every instruction as syntax: its first word is in its row of
spec/opcode_table.json. -/

namespace Sys2Proof

/-- The word has the row's match under the row's mask (R55). -/
def inRow (w mask value : Word) : Prop := w &&& mask = value

/-- A row's mask and match, nibble by nibble. -/
theorem inRow_pack {o x y n o' x' y' n' o'' x'' y'' n'' : Nibble} (ho : o &&& o' = o'') (hx : x &&& x' = x'')
    (hy : y &&& y' = y'') (hn : n &&& n' = n'') :
    inRow (pack o x y n) (pack o' x' y' n') (pack o'' x'' y'' n'') := by
  subst ho; subst hx; subst hy; subst hn; exact and_pack ..

/-- mask and match of the instruction's row, as the table has them. -/
def Laws.OpcodeRow.Statement (i : Instr) : Prop :=
  match i with
  | .cls => inRow (firstWord i) 0xFFFF#16 0x00E0#16
  | .ret => inRow (firstWord i) 0xFFFF#16 0x00EE#16
  | .scd _ => inRow (firstWord i) 0xFFF0#16 0x00C0#16
  | .scu _ => inRow (firstWord i) 0xFFF0#16 0x00D0#16
  | .scr => inRow (firstWord i) 0xFFFF#16 0x00FB#16
  | .scl => inRow (firstWord i) 0xFFFF#16 0x00FC#16
  | .exit => inRow (firstWord i) 0xFFFF#16 0x00FD#16
  | .low => inRow (firstWord i) 0xFFFF#16 0x00FE#16
  | .high => inRow (firstWord i) 0xFFFF#16 0x00FF#16
  | .jp _ => inRow (firstWord i) 0xF000#16 0x1000#16
  | .call _ => inRow (firstWord i) 0xF000#16 0x2000#16
  | .seImm _ _ => inRow (firstWord i) 0xF000#16 0x3000#16
  | .sneImm _ _ => inRow (firstWord i) 0xF000#16 0x4000#16
  | .seReg _ _ => inRow (firstWord i) 0xF00F#16 0x5000#16
  | .saveRange _ _ => inRow (firstWord i) 0xF00F#16 0x5002#16
  | .loadRange _ _ => inRow (firstWord i) 0xF00F#16 0x5003#16
  | .ldImm _ _ => inRow (firstWord i) 0xF000#16 0x6000#16
  | .addImm _ _ => inRow (firstWord i) 0xF000#16 0x7000#16
  | .ldReg _ _ => inRow (firstWord i) 0xF00F#16 0x8000#16
  | .or _ _ => inRow (firstWord i) 0xF00F#16 0x8001#16
  | .and _ _ => inRow (firstWord i) 0xF00F#16 0x8002#16
  | .xor _ _ => inRow (firstWord i) 0xF00F#16 0x8003#16
  | .addReg _ _ => inRow (firstWord i) 0xF00F#16 0x8004#16
  | .sub _ _ => inRow (firstWord i) 0xF00F#16 0x8005#16
  | .shr _ _ => inRow (firstWord i) 0xF00F#16 0x8006#16
  | .subn _ _ => inRow (firstWord i) 0xF00F#16 0x8007#16
  | .shl _ _ => inRow (firstWord i) 0xF00F#16 0x800E#16
  | .sneReg _ _ => inRow (firstWord i) 0xF00F#16 0x9000#16
  | .ldI _ => inRow (firstWord i) 0xF000#16 0xA000#16
  | .jpOff _ => inRow (firstWord i) 0xF000#16 0xB000#16
  | .rnd _ _ => inRow (firstWord i) 0xF000#16 0xC000#16
  | .drw _ _ _ => inRow (firstWord i) 0xF000#16 0xD000#16
  | .drw16 _ _ => inRow (firstWord i) 0xF00F#16 0xD000#16
  | .skp _ => inRow (firstWord i) 0xF0FF#16 0xE09E#16
  | .sknp _ => inRow (firstWord i) 0xF0FF#16 0xE0A1#16
  | .ldILong _ => inRow (firstWord i) 0xFFFF#16 0xF000#16
  | .plane _ => inRow (firstWord i) 0xF0FF#16 0xF001#16
  | .audio => inRow (firstWord i) 0xFFFF#16 0xF002#16
  | .ldVxDt _ => inRow (firstWord i) 0xF0FF#16 0xF007#16
  | .ldVxK _ => inRow (firstWord i) 0xF0FF#16 0xF00A#16
  | .ldDt _ => inRow (firstWord i) 0xF0FF#16 0xF015#16
  | .ldSt _ => inRow (firstWord i) 0xF0FF#16 0xF018#16
  | .addI _ => inRow (firstWord i) 0xF0FF#16 0xF01E#16
  | .ldF _ => inRow (firstWord i) 0xF0FF#16 0xF029#16
  | .ldHf _ => inRow (firstWord i) 0xF0FF#16 0xF030#16
  | .bcd _ => inRow (firstWord i) 0xF0FF#16 0xF033#16
  | .ldPitch _ => inRow (firstWord i) 0xF0FF#16 0xF03A#16
  | .store _ => inRow (firstWord i) 0xF0FF#16 0xF055#16
  | .load _ => inRow (firstWord i) 0xF0FF#16 0xF065#16
  | .saveFlags _ => inRow (firstWord i) 0xF0FF#16 0xF075#16
  | .loadFlags _ => inRow (firstWord i) 0xF0FF#16 0xF085#16

namespace Laws.OpcodeRow

theorem cls : Statement .cls := by unfold Statement inRow; decide
theorem ret : Statement .ret := by unfold Statement inRow; decide
theorem scd (n : Nibble) : Statement (.scd n) := inRow_pack (o' := 0xF#4) (x' := 0xF#4) (y' := 0xF#4) (n' := 0x0#4) rfl rfl rfl BitVec.and_zero
theorem scu (n : Nibble) : Statement (.scu n) := inRow_pack (o' := 0xF#4) (x' := 0xF#4) (y' := 0xF#4) (n' := 0x0#4) rfl rfl rfl BitVec.and_zero
theorem scr : Statement .scr := by unfold Statement inRow; decide
theorem scl : Statement .scl := by unfold Statement inRow; decide
theorem exit : Statement .exit := by unfold Statement inRow; decide
theorem low : Statement .low := by unfold Statement inRow; decide
theorem high : Statement .high := by unfold Statement inRow; decide
theorem jp (nnn : Addr12) : Statement (.jp nnn) := inRow_pack (o' := 0xF#4) (x' := 0x0#4) (y' := 0x0#4) (n' := 0x0#4) rfl BitVec.and_zero BitVec.and_zero BitVec.and_zero
theorem call (nnn : Addr12) : Statement (.call nnn) := inRow_pack (o' := 0xF#4) (x' := 0x0#4) (y' := 0x0#4) (n' := 0x0#4) rfl BitVec.and_zero BitVec.and_zero BitVec.and_zero
theorem seImm (x : RegIdx) (nn : Byte) : Statement (.seImm x nn) := inRow_pack (o' := 0xF#4) (x' := 0x0#4) (y' := 0x0#4) (n' := 0x0#4) rfl BitVec.and_zero BitVec.and_zero BitVec.and_zero
theorem sneImm (x : RegIdx) (nn : Byte) : Statement (.sneImm x nn) := inRow_pack (o' := 0xF#4) (x' := 0x0#4) (y' := 0x0#4) (n' := 0x0#4) rfl BitVec.and_zero BitVec.and_zero BitVec.and_zero
theorem seReg (x : RegIdx) (y : RegIdx) : Statement (.seReg x y) := inRow_pack (o' := 0xF#4) (x' := 0x0#4) (y' := 0x0#4) (n' := 0xF#4) rfl BitVec.and_zero BitVec.and_zero rfl
theorem saveRange (x : RegIdx) (y : RegIdx) : Statement (.saveRange x y) := inRow_pack (o' := 0xF#4) (x' := 0x0#4) (y' := 0x0#4) (n' := 0xF#4) rfl BitVec.and_zero BitVec.and_zero rfl
theorem loadRange (x : RegIdx) (y : RegIdx) : Statement (.loadRange x y) := inRow_pack (o' := 0xF#4) (x' := 0x0#4) (y' := 0x0#4) (n' := 0xF#4) rfl BitVec.and_zero BitVec.and_zero rfl
theorem ldImm (x : RegIdx) (nn : Byte) : Statement (.ldImm x nn) := inRow_pack (o' := 0xF#4) (x' := 0x0#4) (y' := 0x0#4) (n' := 0x0#4) rfl BitVec.and_zero BitVec.and_zero BitVec.and_zero
theorem addImm (x : RegIdx) (nn : Byte) : Statement (.addImm x nn) := inRow_pack (o' := 0xF#4) (x' := 0x0#4) (y' := 0x0#4) (n' := 0x0#4) rfl BitVec.and_zero BitVec.and_zero BitVec.and_zero
theorem ldReg (x : RegIdx) (y : RegIdx) : Statement (.ldReg x y) := inRow_pack (o' := 0xF#4) (x' := 0x0#4) (y' := 0x0#4) (n' := 0xF#4) rfl BitVec.and_zero BitVec.and_zero rfl
theorem or (x : RegIdx) (y : RegIdx) : Statement (.or x y) := inRow_pack (o' := 0xF#4) (x' := 0x0#4) (y' := 0x0#4) (n' := 0xF#4) rfl BitVec.and_zero BitVec.and_zero rfl
theorem and (x : RegIdx) (y : RegIdx) : Statement (.and x y) := inRow_pack (o' := 0xF#4) (x' := 0x0#4) (y' := 0x0#4) (n' := 0xF#4) rfl BitVec.and_zero BitVec.and_zero rfl
theorem xor (x : RegIdx) (y : RegIdx) : Statement (.xor x y) := inRow_pack (o' := 0xF#4) (x' := 0x0#4) (y' := 0x0#4) (n' := 0xF#4) rfl BitVec.and_zero BitVec.and_zero rfl
theorem addReg (x : RegIdx) (y : RegIdx) : Statement (.addReg x y) := inRow_pack (o' := 0xF#4) (x' := 0x0#4) (y' := 0x0#4) (n' := 0xF#4) rfl BitVec.and_zero BitVec.and_zero rfl
theorem sub (x : RegIdx) (y : RegIdx) : Statement (.sub x y) := inRow_pack (o' := 0xF#4) (x' := 0x0#4) (y' := 0x0#4) (n' := 0xF#4) rfl BitVec.and_zero BitVec.and_zero rfl
theorem shr (x : RegIdx) (y : RegIdx) : Statement (.shr x y) := inRow_pack (o' := 0xF#4) (x' := 0x0#4) (y' := 0x0#4) (n' := 0xF#4) rfl BitVec.and_zero BitVec.and_zero rfl
theorem subn (x : RegIdx) (y : RegIdx) : Statement (.subn x y) := inRow_pack (o' := 0xF#4) (x' := 0x0#4) (y' := 0x0#4) (n' := 0xF#4) rfl BitVec.and_zero BitVec.and_zero rfl
theorem shl (x : RegIdx) (y : RegIdx) : Statement (.shl x y) := inRow_pack (o' := 0xF#4) (x' := 0x0#4) (y' := 0x0#4) (n' := 0xF#4) rfl BitVec.and_zero BitVec.and_zero rfl
theorem sneReg (x : RegIdx) (y : RegIdx) : Statement (.sneReg x y) := inRow_pack (o' := 0xF#4) (x' := 0x0#4) (y' := 0x0#4) (n' := 0xF#4) rfl BitVec.and_zero BitVec.and_zero rfl
theorem ldI (nnn : Addr12) : Statement (.ldI nnn) := inRow_pack (o' := 0xF#4) (x' := 0x0#4) (y' := 0x0#4) (n' := 0x0#4) rfl BitVec.and_zero BitVec.and_zero BitVec.and_zero
theorem jpOff (nnn : Addr12) : Statement (.jpOff nnn) := inRow_pack (o' := 0xF#4) (x' := 0x0#4) (y' := 0x0#4) (n' := 0x0#4) rfl BitVec.and_zero BitVec.and_zero BitVec.and_zero
theorem rnd (x : RegIdx) (nn : Byte) : Statement (.rnd x nn) := inRow_pack (o' := 0xF#4) (x' := 0x0#4) (y' := 0x0#4) (n' := 0x0#4) rfl BitVec.and_zero BitVec.and_zero BitVec.and_zero
theorem drw (x : RegIdx) (y : RegIdx) (n : Nibble) : Statement (.drw x y n) := inRow_pack (o' := 0xF#4) (x' := 0x0#4) (y' := 0x0#4) (n' := 0x0#4) rfl BitVec.and_zero BitVec.and_zero BitVec.and_zero
theorem drw16 (x : RegIdx) (y : RegIdx) : Statement (.drw16 x y) := inRow_pack (o' := 0xF#4) (x' := 0x0#4) (y' := 0x0#4) (n' := 0xF#4) rfl BitVec.and_zero BitVec.and_zero rfl
theorem skp (x : RegIdx) : Statement (.skp x) := inRow_pack (o' := 0xF#4) (x' := 0x0#4) (y' := 0xF#4) (n' := 0xF#4) rfl BitVec.and_zero rfl rfl
theorem sknp (x : RegIdx) : Statement (.sknp x) := inRow_pack (o' := 0xF#4) (x' := 0x0#4) (y' := 0xF#4) (n' := 0xF#4) rfl BitVec.and_zero rfl rfl
theorem ldILong (nnnn : Word) : Statement (.ldILong nnnn) := by
  show 0xF000#16 &&& 0xFFFF#16 = 0xF000#16
  decide
theorem plane (n : Nibble) : Statement (.plane n) := inRow_pack (o' := 0xF#4) (x' := 0x0#4) (y' := 0xF#4) (n' := 0xF#4) rfl BitVec.and_zero rfl rfl
theorem audio : Statement .audio := by unfold Statement inRow; decide
theorem ldVxDt (x : RegIdx) : Statement (.ldVxDt x) := inRow_pack (o' := 0xF#4) (x' := 0x0#4) (y' := 0xF#4) (n' := 0xF#4) rfl BitVec.and_zero rfl rfl
theorem ldVxK (x : RegIdx) : Statement (.ldVxK x) := inRow_pack (o' := 0xF#4) (x' := 0x0#4) (y' := 0xF#4) (n' := 0xF#4) rfl BitVec.and_zero rfl rfl
theorem ldDt (x : RegIdx) : Statement (.ldDt x) := inRow_pack (o' := 0xF#4) (x' := 0x0#4) (y' := 0xF#4) (n' := 0xF#4) rfl BitVec.and_zero rfl rfl
theorem ldSt (x : RegIdx) : Statement (.ldSt x) := inRow_pack (o' := 0xF#4) (x' := 0x0#4) (y' := 0xF#4) (n' := 0xF#4) rfl BitVec.and_zero rfl rfl
theorem addI (x : RegIdx) : Statement (.addI x) := inRow_pack (o' := 0xF#4) (x' := 0x0#4) (y' := 0xF#4) (n' := 0xF#4) rfl BitVec.and_zero rfl rfl
theorem ldF (x : RegIdx) : Statement (.ldF x) := inRow_pack (o' := 0xF#4) (x' := 0x0#4) (y' := 0xF#4) (n' := 0xF#4) rfl BitVec.and_zero rfl rfl
theorem ldHf (x : RegIdx) : Statement (.ldHf x) := inRow_pack (o' := 0xF#4) (x' := 0x0#4) (y' := 0xF#4) (n' := 0xF#4) rfl BitVec.and_zero rfl rfl
theorem bcd (x : RegIdx) : Statement (.bcd x) := inRow_pack (o' := 0xF#4) (x' := 0x0#4) (y' := 0xF#4) (n' := 0xF#4) rfl BitVec.and_zero rfl rfl
theorem ldPitch (x : RegIdx) : Statement (.ldPitch x) := inRow_pack (o' := 0xF#4) (x' := 0x0#4) (y' := 0xF#4) (n' := 0xF#4) rfl BitVec.and_zero rfl rfl
theorem store (x : RegIdx) : Statement (.store x) := inRow_pack (o' := 0xF#4) (x' := 0x0#4) (y' := 0xF#4) (n' := 0xF#4) rfl BitVec.and_zero rfl rfl
theorem load (x : RegIdx) : Statement (.load x) := inRow_pack (o' := 0xF#4) (x' := 0x0#4) (y' := 0xF#4) (n' := 0xF#4) rfl BitVec.and_zero rfl rfl
theorem saveFlags (x : RegIdx) : Statement (.saveFlags x) := inRow_pack (o' := 0xF#4) (x' := 0x0#4) (y' := 0xF#4) (n' := 0xF#4) rfl BitVec.and_zero rfl rfl
theorem loadFlags (x : RegIdx) : Statement (.loadFlags x) := inRow_pack (o' := 0xF#4) (x' := 0x0#4) (y' := 0xF#4) (n' := 0xF#4) rfl BitVec.and_zero rfl rfl

end Laws.OpcodeRow

end Sys2Proof
end

