-- ==== Sys2Proof/Tests/Slice0.lean ====
section
/-! SUPPORT. Tests: the ill-formed term, the words of the spec's encodings, and the vectors of spec/95_test_vectors.md
(each test names its vector; a name like R88 is the worked example of that rule). -/

namespace Sys2Proof.Tests
open Sys2Proof.Machine

/-! ### WellFormed: its one check refuses DXYN with n = 0 (R55) -/

theorem test_drw_zero_rows_ill_formed : Instr.wf (.drw 1#4 2#4 0#4) = false := by decide
theorem test_drw_one_row_well_formed : Instr.wf (.drw 1#4 2#4 1#4) = true := by decide

/-! ### Decode: the words of R53, nibble by nibble -/

theorem test_decode_fixed :
    ([0x00E0#16, 0x00EE#16, 0x00FB#16, 0x00FC#16, 0x00FD#16, 0x00FE#16, 0x00FF#16, 0xF002#16].map
        fun w => decode .xochip w 0#16) =
      [some .cls, some .ret, some .scr, some .scl, some .exit, some .low, some .high, some .audio] := by decide
theorem test_decode_count : ([0x00C5#16, 0x00DA#16].map fun w => decode .xochip w 0#16) =
    [some (.scd 5#4), some (.scu 0xA#4)] := by decide
theorem test_decode_nnn : ([0x1234#16, 0x2ABC#16, 0xA2F0#16, 0xBFED#16].map fun w => decode .chip8 w 0#16) =
    [some (.jp 0x234#12), some (.call 0xABC#12), some (.ldI 0x2F0#12), some (.jpOff 0xFED#12)] := by decide
theorem test_decode_xnn :
    ([0x3A42#16, 0x4B17#16, 0x6A42#16, 0x71FF#16, 0xC30F#16].map fun w => decode .chip8 w 0#16) =
      [some (.seImm 0xA#4 0x42#8), some (.sneImm 0xB#4 0x17#8), some (.ldImm 0xA#4 0x42#8),
        some (.addImm 1#4 0xFF#8), some (.rnd 3#4 0x0F#8)] := by decide
theorem test_decode_xy5 : ([0x5120#16, 0x5342#16, 0x5013#16, 0x9120#16].map fun w => decode .xochip w 0#16) =
    [some (.seReg 1#4 2#4), some (.saveRange 3#4 4#4), some (.loadRange 0#4 1#4), some (.sneReg 1#4 2#4)] := by decide
theorem test_decode_alu :
    ([0x8120#16, 0x8121#16, 0x8122#16, 0x8123#16, 0x8124#16, 0x8125#16, 0x8126#16, 0x8127#16, 0x812E#16].map
        fun w => decode .chip8 w 0#16) =
      [some (.ldReg 1#4 2#4), some (.or 1#4 2#4), some (.and 1#4 2#4), some (.xor 1#4 2#4), some (.addReg 1#4 2#4),
        some (.sub 1#4 2#4), some (.shr 1#4 2#4), some (.subn 1#4 2#4), some (.shl 1#4 2#4)] := by decide
theorem test_decode_draw : ([0xD123#16, 0xD120#16].map fun w => decode .schip w 0#16) =
    [some (.drw 1#4 2#4 3#4), some (.drw16 1#4 2#4)] := by decide
theorem test_decode_keys : ([0xE59E#16, 0xE5A1#16, 0xF50A#16].map fun w => decode .chip8 w 0#16) =
    [some (.skp 5#4), some (.sknp 5#4), some (.ldVxK 5#4)] := by decide
theorem test_decode_timers : ([0xF307#16, 0xF315#16, 0xF318#16].map fun w => decode .chip8 w 0#16) =
    [some (.ldVxDt 3#4), some (.ldDt 3#4), some (.ldSt 3#4)] := by decide
theorem test_decode_index : ([0xF51E#16, 0xF529#16, 0xF530#16, 0xF533#16].map fun w => decode .schip w 0#16) =
    [some (.addI 5#4), some (.ldF 5#4), some (.ldHf 5#4), some (.bcd 5#4)] := by decide
theorem test_decode_runs :
    ([0xF255#16, 0xF265#16, 0xF275#16, 0xF285#16, 0xF23A#16, 0xF301#16].map fun w => decode .xochip w 0#16) =
      [some (.store 2#4), some (.load 2#4), some (.saveFlags 2#4), some (.loadFlags 2#4), some (.ldPitch 2#4),
        some (.plane 3#4)] := by decide
theorem test_decode_long : decodeBytes .xochip [0xF0#8, 0x00#8, 0xAB#8, 0xCD#8, 0x12#8] =
    .ok (.ldILong 0xABCD#16, [0x12#8]) := by decide

/-- X9, X10, X11, X12, D11, T18: unassigned words, and words of a later Variant. -/
theorem test_decode_illegal :
    ([0x8F0F#16, 0x5231#16, 0x9231#16, 0xE19F#16, 0xF0FF#16, 0x0123#16, 0xF000#16, 0xD010#16, 0x00FD#16].all
        fun w => decode .chip8 w 0#16 == none) = true ∧
      decode .schip 0xF875#16 0#16 = none ∧ decode .schip 0xF775#16 0#16 = some (.saveFlags 7#4) := by decide

theorem test_table_word : decodeTableWord 16 0x8126 = some (.shr 1#4 2#4) ∧
    decodeTableWord 32 0xABCDF000 = some (.ldILong 0xABCD#16) := by decide

/-! ### One step

`vec v p w f` is the state after one `execute-one` of the word `w` at 0x200, in a fresh machine of Variant `v` and
PROFILE `p` that `f` has prepared. -/

/-- The next state of an outcome. -/
def after : Host.Outcome State Fault Refusal → Option State
  | .next t => some t
  | .fault _ => none
  | .refused _ => none

def vec (v : Variant) (p : Byte) (w : Nat) (f : State → State) : Option State :=
  after (step ((f (State.construct v p Params.default)).withFetchWord 16 w))

/-- V0 = a, V1 = b. -/
def regs (a b : Byte) (s : State) : State := setV (setV s 0#4 a) 1#4 b

/-- I = a with bytes at a. -/
def at' (a : Word) (bs : List Byte) (s : State) : State := { writeRun s a.toNat bs with index := a }

/-- V0, V1 and VF. -/
def v01f (t : State) : Byte × Byte × Byte := (getV t 0#4, getV t 1#4, getV t 0xF#4)

/-- PC and the fault record. -/
def faultOf (t : State) : Word × Option FaultRecord := (t.pc, t.fault)

/-! Fetch and faults -/

/-- X2, X3. -/
theorem test_fetch_fault : ([0xFFF#16, 0x1000#16].map fun a =>
    (after (step { State.construct .chip8 0x78#8 Params.default with pc := a })).map faultOf) =
    [some (0xFFF#16, some ⟨.addressFault, 0xFFF#16, none, some 0x1000⟩), some (0x1000#16, some ⟨.addressFault, 0x1000#16, none, some 0x1000⟩)] := by
  decide
/-- X4: no load. -/
theorem test_unloaded : (after (step State.reset)).map faultOf =
    some (0x200#16, some ⟨.illegalInstruction, 0x200#16, some 0x0000#16, none⟩) := by decide
/-- X5 and X6: the PC range check. -/
theorem test_pc_range : (vec .xochip 0x40#8 0x6000 fun s => { s with pc := 0xFFFE#16 }).map faultOf =
    some (0xFFFE#16, some ⟨.addressFault, 0xFFFE#16, some 0x6000#16, some 0x10000⟩) ∧
    (after (step ({ State.reset with pc := 0xFFFC#16 }.withFetchWord 32 0x1234F000))).map faultOf =
    some (0xFFFC#16, some ⟨.addressFault, 0xFFFC#16, some 0xF000#16, some 0x10000⟩) := by decide
/-- L6: a fault is sticky. -/
theorem test_sticky : ((vec .chip8 0x78#8 0x5001 id).bind fun t => after (step t)) = vec .chip8 0x78#8 0x5001 id := by
  decide

/-! Control -/

/-- R76. -/
theorem test_jp : (vec .chip8 0x78#8 0x1234 id).map (·.pc) = some 0x234#16 := by decide
/-- T3. -/
theorem test_call : (vec .chip8 0x78#8 0x2300 id).map (fun t => (t.stack, t.pc)) = some ([0x202#16], 0x300#16) := by
  decide
/-- T4: a full stack. -/
theorem test_call_full : (vec .chip8 0x78#8 0x2300 fun s => { s with stack := List.replicate 16 0x202#16 }).map
    (fun t => (sp t, faultOf t)) = some (16, 0x200#16, some ⟨.stackFault, 0x200#16, some 0x2300#16, none⟩) := by decide
/-- T5, T6. -/
theorem test_ret : (vec .chip8 0x78#8 0x00EE id).map faultOf =
    some (0x200#16, some ⟨.stackFault, 0x200#16, some 0x00EE#16, none⟩) ∧
    (vec .chip8 0x78#8 0x00EE fun s => { s with pc := 0x300#16, stack := [0x202#16] }).map (fun t => (t.stack, t.pc)) =
    some ([], 0x202#16) := by decide
/-- T7, T8. -/
theorem test_jp_off : ([0x78#8, 0x57#8].map fun p =>
    (vec .chip8 p 0xB300 fun s => setV (setV s 0#4 0x10#8) 3#4 0x04#8).map (·.pc)) =
    [some 0x310#16, some 0x304#16] := by decide
/-- T10, T11. -/
theorem test_skip_imm : (vec .chip8 0x78#8 0x3100 id).map (·.pc) = some 0x204#16 ∧
    ([0x05#8, 0x06#8].map fun b => (vec .chip8 0x78#8 0x4105 (regs 0#8 b)).map (·.pc)) =
    [some 0x202#16, some 0x204#16] := by decide
/-- T12, T13. -/
theorem test_skip_reg : (vec .chip8 0x78#8 0x5010 (regs 7#8 7#8)).map (·.pc) = some 0x204#16 ∧
    (vec .chip8 0x78#8 0x9010 (regs 1#8 0#8)).map (·.pc) = some 0x204#16 := by decide
/-- T14, T15: the skip over F000 NNNN. -/
theorem test_skip_long : ([(Variant.xochip, 0x40#8), (Variant.schip, 0x57#8)].map fun vp =>
    (after (step ((State.construct vp.1 vp.2 Params.default).withFetchWord 32 0x00F03100))).map (·.pc)) =
    [some 0x204#16, some 0x204#16] ∧
    (after (step ((State.construct .xochip 0x40#8 Params.default).withFetchWord 32 0xF0003100))).map (·.pc) =
    some 0x206#16 := by decide
/-- T17, T18. -/
theorem test_exit : (vec .schip 0x57#8 0x00FD id).map (fun t => (t.pc, t.halted)) = some (0x202#16, true) ∧
    (vec .chip8 0x78#8 0x00FD id).map faultOf = some (0x200#16, some ⟨.illegalInstruction, 0x200#16, some 0x00FD#16, none⟩) := by decide

/-! ALU -/

/-- A21, A22, A23, A24. -/
theorem test_load_add_imm : (vec .chip8 0x78#8 0x70FF (regs 1#8 0#8)).map v01f = some (0#8, 0#8, 0#8) ∧
    (vec .chip8 0x78#8 0x7F01 fun s => setVF s 0xFF#8).map v01f = some (0#8, 0#8, 0#8) ∧
    (vec .chip8 0x78#8 0x6F12 id).map v01f = some (0#8, 0#8, 0x12#8) ∧
    (vec .chip8 0x78#8 0x8010 (regs 1#8 0x9C#8)).map v01f = some (0x9C#8, 0x9C#8, 0#8) := by decide
/-- A16, A17. -/
theorem test_or : ([0x78#8, 0x57#8].map fun p =>
    (vec .chip8 p 0x8011 fun s => setVF (regs 0x0F#8 0xF0#8 s) 7#8).map v01f) =
    [some (0xFF#8, 0xF0#8, 0#8), some (0xFF#8, 0xF0#8, 7#8)] := by decide
/-- A20. -/
theorem test_and : (vec .chip8 0x78#8 0x8012 (regs 0x3C#8 0x0F#8)).map v01f = some (0x0C#8, 0x0F#8, 0#8) := by decide
/-- A18, A19: VF as destination. -/
theorem test_xor : ([0x57#8, 0x78#8].map fun p =>
    (vec .chip8 p 0x8F13 fun s => setVF (regs 0#8 0xF0#8 s) 0x0F#8).map v01f) =
    [some (0#8, 0xF0#8, 0xFF#8), some (0#8, 0xF0#8, 0#8)] := by decide
/-- A1, A3. -/
theorem test_add_reg : (vec .chip8 0x78#8 0x8014 (regs 0xFF#8 1#8)).map v01f = some (0#8, 1#8, 1#8) ∧
    (vec .chip8 0x78#8 0x8FF4 fun s => setVF s 0x90#8).map v01f = some (0#8, 0#8, 1#8) := by decide
/-- A5, A6, A7. -/
theorem test_sub : (vec .chip8 0x78#8 0x8015 (regs 5#8 5#8)).map v01f = some (0#8, 5#8, 1#8) ∧
    (vec .chip8 0x78#8 0x8015 (regs 0#8 1#8)).map v01f = some (0xFF#8, 1#8, 0#8) ∧
    (vec .chip8 0x78#8 0x8F15 fun s => setVF (regs 0#8 5#8 s) 3#8).map v01f = some (0#8, 5#8, 0#8) := by decide
/-- A8, A9. -/
theorem test_subn : (vec .chip8 0x78#8 0x8017 (regs 5#8 3#8)).map v01f = some (0xFE#8, 3#8, 0#8) ∧
    (vec .chip8 0x78#8 0x8017 (regs 3#8 5#8)).map v01f = some (2#8, 5#8, 1#8) := by decide
/-- A10, A11. -/
theorem test_shr : ([0x78#8, 0x57#8].map fun p => (vec .chip8 p 0x8106 (regs 3#8 0xFF#8)).map v01f) =
    [some (3#8, 1#8, 1#8), some (3#8, 0x7F#8, 1#8)] := by decide
/-- A12, A13. -/
theorem test_shl : ([0x78#8, 0x57#8].map fun p => (vec .chip8 p 0x810E (regs 0x80#8 1#8)).map v01f) =
    [some (0x80#8, 0#8, 1#8), some (0x80#8, 2#8, 0#8)] := by decide
/-- A26. -/
theorem test_rnd : (vec .chip8 0x78#8 0xC30F id).map (fun t => (t.pc, t.draws)) = some (0x202#16, 1) := by decide

/-! Index register and memory -/

/-- M1, M2, M4, M6. -/
theorem test_index : (vec .chip8 0x78#8 0xA2F0 id).map (·.index) = some 0x2F0#16 ∧
    (vec .chip8 0x78#8 0xF11E fun s => { regs 0#8 1#8 s with index := 0xFFFF#16 }).map (·.index) = some 0#16 ∧
    (vec .chip8 0x78#8 0xF029 (regs 0x1A#8 0#8)).map (·.index) = some 0x32#16 ∧
    (vec .schip 0x57#8 0xF030 (regs 9#8 0#8)).map (·.index) = some 0xAA#16 := by decide
/-- M22. -/
theorem test_long : (after (step ({ State.reset with pc := 0x208#16 }.withFetchWord 32 0xABCDF000))).map
    (fun t => (t.index, t.pc)) = some (0xABCD#16, 0x20C#16) := by decide
/-- M8, M10. -/
theorem test_bcd : (vec .chip8 0x78#8 0xF033 fun s => { regs 0xFF#8 0#8 s with index := 0x300#16 }).map
    (fun t => [0x300, 0x301, 0x302].map (readByte t)) = some [2#8, 5#8, 5#8] ∧
    (vec .chip8 0x78#8 0xF033 fun s => { regs 0x7B#8 0#8 s with index := 0xFFE#16 }).map faultOf =
    some (0x200#16, some ⟨.addressFault, 0x200#16, some 0xF033#16, some 0x1000⟩) := by decide
/-- R105 and M14. -/
theorem test_store : ([0x78#8, 0x57#8].map fun p =>
    (vec .chip8 p 0xF155 fun s => { regs 1#8 2#8 s with index := 0x300#16 }).map fun t =>
      ([0x300, 0x301, 0x302].map (readByte t), t.index)) =
    [some ([1#8, 2#8, 0#8], 0x302#16), some ([1#8, 2#8, 0#8], 0x300#16)] ∧
    (vec .xochip 0x40#8 0xF055 fun s => { regs 0x77#8 0#8 s with index := 0xFFFF#16 }).map
      (fun t => (readByte t 0xFFFF, t.index)) = some (0x77#8, 0#16) := by decide
/-- M15. -/
theorem test_load : (vec .chip8 0x78#8 0xF165 (at' 0x300#16 [2#8, 5#8, 4#8])).map
    (fun t => (v01f t, getV t 2#4, t.index)) = some ((2#8, 5#8, 0#8), 0#8, 0x302#16) := by decide
/-- M17, M18, M21. -/
theorem test_save_range : ([0x5012, 0x5102].map fun w =>
    (vec .xochip 0x40#8 w fun s => { regs 0xAA#8 0xBB#8 s with index := 0x400#16 }).map fun t =>
      ([0x400, 0x401].map (readByte t), t.index)) =
    [some ([0xAA#8, 0xBB#8], 0x400#16), some ([0xBB#8, 0xAA#8], 0x400#16)] ∧
    (vec .schip 0x57#8 0x5342 id).map faultOf = some (0x200#16, some ⟨.illegalInstruction, 0x200#16, some 0x5342#16, none⟩) := by decide
/-- M19 and its descending form. -/
theorem test_load_range : ([0x5013, 0x5103].map fun w =>
    (vec .xochip 0x40#8 w (at' 0x400#16 [0x11#8, 0x22#8])).map v01f) =
    [some (0x11#8, 0x22#8, 0#8), some (0x22#8, 0x11#8, 0#8)] := by decide
/-- M23, M26. -/
theorem test_flags : (vec .schip 0x57#8 0xF175 (regs 0x12#8 0x34#8)).map (fun t => (getRpl t 0#4, getRpl t 1#4)) =
    some (0x12#8, 0x34#8) ∧ (vec .schip 0x57#8 0xF185 (regs 9#8 9#8)).map v01f = some (0#8, 0#8, 0#8) := by decide

/-! Display -/

/-- The set pixels of a plane among the first 16 columns and rows, as (x, y). -/
def lit (t : State) (k : Fin 4) : List (Nat × Nat) :=
  (List.range 16).flatMap fun y => (List.range 16).filterMap fun x =>
    if Plane.get t.planes[k] x y then some (x, y) else none

/-- Plane 0 with one more pixel toggled. -/
def dot (x y : Nat) (s : State) : State := { s with planes := s.planes.set 0 (Plane.toggle s.planes[0] x y) }

/-- S3, first draw. -/
theorem test_drw : (vec .chip8 0x40#8 0xD011 (at' 0x300#16 [0xFF#8])).map (fun t => (lit t 0, getV t 0xF#4)) =
    some ((List.range 8).map fun x => (x, 0), 0#8) := by decide
/-- D1: one of the two rows collides. -/
theorem test_drw_rows : (vec .chip8 0xC0#8 0xD012 fun s => dot 0 0 (at' 0x300#16 [0x81#8, 0x80#8] s)).map
    (fun t => (lit t 0, getV t 0xF#4, t.pending)) = some ([(7, 0), (0, 1)], 1#8, .none) := by decide
/-- D4, D5: the start point wraps under CLIP; the old VF is a coordinate. -/
theorem test_drw_start : (vec .chip8 0x50#8 0xD011 fun s => regs 70#8 33#8 (at' 0x300#16 [0x80#8] s)).map
    (fun t => lit t 0) = some [(6, 1)] ∧
    (vec .chip8 0x40#8 0xDF11 fun s => setVF (regs 0#8 2#8 (at' 0x300#16 [0x80#8] s)) 5#8).map
    (fun t => (lit t 0, getV t 0xF#4)) = some ([(5, 2)], 0#8) := by decide
/-- D2, D3: WRAP and CLIP at the right edge. -/
theorem test_drw_edge : ([0x40#8, 0x50#8].map fun p =>
    (vec .chip8 p 0xD011 fun s => regs 60#8 0#8 (at' 0x300#16 [0xFF#8] s)).map fun t => lit t 0) =
    [some [(0, 0), (1, 0), (2, 0), (3, 0)], some []] := by decide
/-- D8: the vblank wait. -/
theorem test_drw_wait : (vec .chip8 0x78#8 0xD011 (at' 0x300#16 [0x80#8])).map
    (fun t => (t.pending, (tick 0 t).pending, (tick 1 t).pending, after (step t) == some t)) =
    some (.vblankWait, .vblankWait, .none, true) := by decide
/-- D6, D7: the last byte. -/
theorem test_drw_range : (vec .chip8 0x40#8 0xD01F fun s => { s with index := 0xFF2#16 }).map faultOf =
    some (0x200#16, some ⟨.addressFault, 0x200#16, some 0xD01F#16, some 0x1000⟩) ∧
    (vec .chip8 0x40#8 0xD01F fun s => { s with index := 0xFF1#16 }).map faultOf = some (0x202#16, none) := by decide
/-- D12, D13: two planes, and one that is not the first. -/
theorem test_drw_planes : ([3#4, 2#4].map fun m =>
    (vec .xochip 0x40#8 0xD011 fun s => { at' 0x300#16 [0x80#8, 0x40#8] s with planeMask := m }).map fun t =>
      (lit t 0, lit t 1)) = [some ([(0, 0)], [(1, 0)]), some ([], [(0, 0)])] := by decide
/-- D10. -/
theorem test_drw16 : (vec .schip 0x57#8 0xD010 (at' 0x300#16 [0x80#8, 0x01#8])).map (fun t => lit t 0) =
    some [(0, 0), (15, 0)] := by decide
/-- D25. -/
theorem test_cls : (vec .xochip 0x40#8 0x00E0 (dot 3 4)).map (fun t => lit t 0) = some [] ∧
    (vec .xochip 0x40#8 0x00E0 fun s => { dot 3 4 s with planeMask := 2#4 }).map (fun t => lit t 0) = some [(3, 4)] := by
  decide
/-- D16, D22. -/
theorem test_scd : (vec .schip 0x57#8 0x00C3 (dot 5 0)).map (fun t => lit t 0) = some [(5, 3)] ∧
    (vec .schip 0x57#8 0x00C0 (dot 5 5)).map (fun t => lit t 0) = some [(5, 5)] := by decide
/-- D17, D18. -/
theorem test_scu : ([3, 1].map fun y => (vec .xochip 0x40#8 0x00D3 (dot 5 y)).map fun t => lit t 0) =
    [some [(5, 0)], some []] := by decide
/-- D19: what leaves on the right is gone. -/
theorem test_scr : (vec .schip 0x57#8 0x00FB fun s => dot 0 0 (dot 62 0 s)).map (fun t => t.planes[0] == Plane.toggle Plane.clear 4 0) =
    some true := by decide
/-- D20. -/
theorem test_scl : (vec .schip 0x57#8 0x00FC fun s => dot 4 0 (dot 1 0 s)).map (fun t => t.planes[0] == Plane.toggle Plane.clear 0 0) =
    some true := by decide
/-- D26, R127. -/
theorem test_resolution : (vec .xochip 0x40#8 0x00FF fun s => { dot 3 4 s with planeMask := 2#4 }).map
    (fun t => (t.res, lit t 0)) = some (.hires, []) ∧
    (vec .xochip 0x40#8 0x00FE fun s => { dot 3 4 s with res := .hires }).map (fun t => (t.res, lit t 0)) =
    some (.lores, []) := by decide
/-- R129. -/
theorem test_plane : (vec .xochip 0x40#8 0xF301 id).map (·.planeMask) = some 3#4 := by decide
/-- D28. -/
theorem test_palette : paletteIndex { State.reset with
    planes := #v[Plane.toggle Plane.clear 3 4, Plane.clear, Plane.toggle Plane.clear 3 4, Plane.clear] } 3 4 = 5#4 := by
  decide

/-! Timers, keypad, audio -/

/-- K1, K2, K3. -/
theorem test_timers : (vec .chip8 0x78#8 0xF307 fun s => { s with dt := 0x3C#8 }).map (fun t => getV t 3#4) = some 0x3C#8 ∧
    (vec .chip8 0x78#8 0xF015 (regs 0x3C#8 0#8)).map (fun t => (t.dt, (tick 1 t).dt, (tick 101 t).dt)) =
    some (0x3C#8, 0x3B#8, 0#8) ∧
    (vec .chip8 0x78#8 0xF018 (regs 2#8 0#8)).map (fun t => (soundActive t, soundActive (tick 2 t))) =
    some (true, false) := by decide
/-- R137, S6. -/
theorem test_key_wait : (vec .chip8 0x78#8 0xF20A id).map (fun t =>
    (t.pc, t.pending, (setKey 7#4 true t).pending, getV (setKey 7#4 false (setKey 7#4 true t)) 2#4)) =
    some (0x202#16, .keyWait 2#4, .keyWait 2#4, 7#8) := by decide
/-- K4. -/
theorem test_key_press : (vec .chip8 0x38#8 0xF20A id).map (fun t =>
    (getV (setKey 7#4 true t) 2#4, (setKey 7#4 true t).pending)) = some (7#8, .none) := by decide
/-- K9, K10. -/
theorem test_key_skips : (vec .chip8 0x78#8 0xE19E fun s => regs 0#8 0x15#8 (setKeyFlag s 5#4 true)).map (·.pc) =
    some 0x204#16 ∧ (vec .chip8 0x78#8 0xE1A1 (regs 0#8 5#8)).map (·.pc) = some 0x204#16 := by decide
/-- K11, K13, K14. -/
theorem test_audio : (vec .xochip 0x40#8 0xF03A (regs 0x70#8 0#8)).map (·.pitch) = some 0x70#8 ∧
    (vec .xochip 0x40#8 0xF002 (at' 0x300#16 (List.replicate 16 0xF0#8))).map (·.pattern) =
    some (Vector.replicate 16 0xF0#8) ∧
    (vec .xochip 0x40#8 0xF002 fun s => { s with index := 0xFFF1#16 }).map faultOf =
    some (0x200#16, some ⟨.addressFault, 0x200#16, some 0xF002#16, some 0x10000⟩) := by decide

/-! Construction and load -/

/-- L3, L4. -/
theorem test_new :
    (new 3#2 0#8 Params.default (List.replicate 80 0#8) (List.replicate 160 0#8) matches .fault .invalidProfile) = true ∧
    (new 0#2 0xFF#8 Params.default (List.replicate 80 0#8) (List.replicate 160 0#8) matches .next _) = true := by
  decide
/-- L1 with a short memory: 0x200 bytes and one more do not fit in 0x400. -/
theorem test_load_program : (after (load [0x60#8, 0x05#8] State.reset)).map
    (fun t => (readWord t 0x200, t.loaded, (load [0#8] t matches .refused .loadOutsideProtocol))) =
    some (0x6005#16, true, true) := by decide

/-! ### Witnesses

One theorem per statement with hypotheses (witness_<Name> for Obligations.<Name>): concrete states and operands that meet
the hypotheses of each clause, at the ends of their ranges. -/

/-- A fresh machine. -/
def mk (v : Variant) (p : Byte) : State := State.construct v p Params.default

/-- The last PC with room for two bytes. -/
def top (s : State) : State := { s with pc := 0xFFFD#16 }

/-- `i` answers a next state of which `f` holds. -/
def runs (i : Instr) (s : State) (f : State → Bool) : Bool := (after (exec i s)).any f

theorem witness_DecodeOfEncodeIsTheInstruction :
    (Instr.drw 0xF#4 0xF#4 0xF#4).wf = true ∧ (Instr.drw 0xF#4 0xF#4 0xF#4).legalIn .chip8 = true ∧
      (Instr.saveFlags 7#4).legalIn .schip = true ∧ (Instr.ldILong 0xFFFF#16).legalIn .xochip = true := by decide
theorem witness_DecodedWordIsTheInstructionsWord : decode .schip 0xF775#16 0#16 = some (.saveFlags 7#4) ∧
    decode .xochip 0xF000#16 0xFFFF#16 = some (.ldILong 0xFFFF#16) := by decide
theorem witness_InstructionOutsideVariantIsIllegal :
    (Instr.saveFlags 8#4).legalIn (mk .schip 0#8).variant = false ∧ (Instr.exit).legalIn (mk .chip8 0#8).variant = false := by
  decide
theorem witness_StepRunsTheDecodedInstruction :
    (let s := { mk .chip8 0#8 with pc := 0xFFE#16 }.withFetchWord 16 0x6005;
      stopped s = false ∧ s.pc.toNat + 2 ≤ memSize s ∧
      decode s.variant (readWord s s.pc.toNat) 0#16 = some (.ldImm 0#4 5#8) ∧
      isLong s.variant (readWord s s.pc.toNat) = false) ∧
    (let s := { mk .xochip 0#8 with pc := 0xFFFC#16 }.withFetchWord 32 0xABCDF000;
      stopped s = false ∧ decode s.variant (readWord s s.pc.toNat) 0#16 = some (.ldILong 0#16) ∧
      isLong s.variant (readWord s s.pc.toNat) = true ∧ s.pc.toNat + 4 ≤ memSize s) := by decide
theorem witness_EntryChecks :
    (∃ (s : State) (r : FaultRecord), s.fault = some r) ∧ (∃ s : State, s.fault = none ∧ s.halted = true) ∧
    (∃ s : State, s.fault = none ∧ s.halted = false ∧ s.pending = .keyWait 0xF#4) ∧
    (∃ s : State, s.fault = none ∧ s.halted = false ∧ s.pending = .vblankWait) ∧
    (∃ s : State, s.fault = none ∧ s.halted = false ∧ s.pending = .none) :=
  ⟨⟨raise (mk .chip8 0#8) .stackFault none none, _, rfl⟩, ⟨{ mk .schip 0#8 with halted := true }, rfl, rfl⟩,
    ⟨{ mk .chip8 0#8 with pending := .keyWait 0xF#4 }, rfl, rfl, rfl⟩,
    ⟨{ mk .chip8 0#8 with pending := .vblankWait }, rfl, rfl, rfl⟩, ⟨mk .chip8 0#8, rfl, rfl, rfl⟩⟩
theorem witness_FetchReadsTheWordAtPc :
    (let s := { mk .chip8 0#8 with pc := 0xFFE#16 }; s.pc.toNat + 2 ≤ memSize s) ∧
    (let s := { mk .chip8 0#8 with pc := 0x1000#16 }; stopped s = false ∧ memSize s ≤ s.pc.toNat) ∧
    (let s := { mk .xochip 0#8 with pc := 0xFFFF#16 }; stopped s = false ∧ s.pc.toNat + 1 = memSize s) := by decide
theorem witness_ExtensionFetchOutsideMemoryFaults :
    let s := { mk .xochip 0#8 with pc := 0xFFFE#16 }.withFetchWord 16 0xF000
    stopped s = false ∧ s.variant = .xochip ∧ s.pc.toNat + 2 ≤ memSize s ∧ memSize s < s.pc.toNat + 4 ∧
      readWord s s.pc.toNat = 0xF000#16 := by decide
theorem witness_IllegalInstructionExactlyWhenUndecodable :
    ([0x5001, 0x6005].all fun w => let s := (mk .chip8 0#8).withFetchWord 16 w
      !stopped s && (after (step s)).isSome) = true := by decide
theorem witness_StackFaultExactlyOnImbalance :
    (mk .chip8 0#8).fault = none ∧ runs .ret (mk .chip8 0#8) (fun _ => true) = true := by decide
theorem witness_FaultsArePrecise : stopped (mk .chip8 0#8) = false := by decide
theorem witness_PcPastTheTopFaults :
    (let s := { mk .xochip 0#8 with pc := 0xFFFE#16, index := 0xFFFD#16 };
      0x10000 ≤ s.pc.toNat + 2 ∧ (Instr.exit).legalIn s.variant = true ∧ (Instr.bcd 0#4).legalIn s.variant = true ∧
      IndexRange 3 s) ∧
    (let s := { mk .xochip 0#8 with pc := 0xFFFC#16 }; s.variant = .xochip ∧ 0x10000 ≤ s.pc.toNat + 4) := by decide
theorem witness_JumpGoesToItsTarget :
    validParams (mk .chip8 0#8).variant (mk .chip8 0#8).params = true ∧ memSize (mk .chip8 0#8) = 4096 := by decide
theorem witness_CallPushesTheReturnAddress :
    (let s := { mk .chip8 0#8 with stack := List.replicate 15 0#16 }; sp s ≠ s.params.stackDepth) ∧
    (let s := { mk .chip8 0#8 with stack := List.replicate 16 0#16 }; sp s = s.params.stackDepth) := by decide
theorem witness_ReturnPopsTheReturnAddress :
    { mk .chip8 0#8 with stack := [0xFFFF#16] }.stack = [0xFFFF#16] ∧ sp (mk .chip8 0#8) = 0 ∧
    (let s := { mk .chip8 0#8 with stack := List.replicate 15 0#16 }; sp s < s.params.stackDepth) := by decide
theorem witness_JumpWithOffset :
    (mk .chip8 0x78#8).profile.getLsbD 2 = false ∧ (mk .chip8 0x57#8).profile.getLsbD 2 = true := by decide
/-- V0 = V1, V0 ≠ 1: a skip taken with its target at 0xFFFF and at 0x10000, one over F000 NNNN, and one not taken that
ends at 0xFFFF and at 0x10000. -/
theorem witness_RegisterSkips :
    (let s := mk .xochip 0#8; (getV s 0#4 == getV s 1#4) = true ∧ (getV s 0#4 == 1#8) = false) ∧
    0xFFFF = { mk .xochip 0#8 with pc := 0xFFFB#16 }.pc.toNat + 2 + 2 ∧
    0x10000 = { mk .xochip 0#8 with pc := 0xFFFC#16 }.pc.toNat + 2 + 2 ∧ Room 2 (top (mk .xochip 0#8)) ∧
    0x10000 ≤ { mk .xochip 0#8 with pc := 0xFFFE#16 }.pc.toNat + 2 ∧
    (let s := (mk .xochip 0#8).withFetchWord 32 0xF0003010;
      s.pc.toNat + 3 < memSize s ∧ readWord s (s.pc.toNat + 2) = 0xF000#16) := by decide
theorem witness_KeySkips :
    (let s := setKeyFlag (mk .chip8 0#8) 0#4 true; s.keys.getLsbD ((getV s 0#4).toNat % 16) = true) ∧
    (mk .chip8 0#8).keys.getLsbD 0 = false ∧ Room 2 (top (mk .chip8 0#8)) ∧
    0xFFFF = { mk .xochip 0#8 with pc := 0xFFFB#16 }.pc.toNat + 2 + 2 ∧
    0x10000 = { mk .xochip 0#8 with pc := 0xFFFC#16 }.pc.toNat + 2 + 2 ∧
    0x10000 ≤ { mk .xochip 0#8 with pc := 0xFFFE#16 }.pc.toNat + 2 := by decide
theorem witness_ExitHalts : ((mk .schip 0#8).variant ≠ .chip8 ∧ Room 2 (top (mk .schip 0#8))) ∧
    (mk .chip8 0#8).variant = .chip8 ∧
    (let s := { mk .xochip 0#8 with halted := true }; s.fault = none ∧ s.halted = true) := by decide
theorem witness_LoadAndAddImmediate : Room 2 (top (mk .xochip 0#8)) := by decide
theorem witness_LogicOperations : Room 2 (top (mk .xochip 8#8)) := by decide
theorem witness_AddSetsCarry : Room 2 (top (mk .xochip 0#8)) := by decide
theorem witness_SubtractSetsNoBorrow : Room 2 (top (mk .xochip 0#8)) := by decide
theorem witness_ShiftsCaptureTheBitShiftedOut : Room 2 (top (mk .xochip 1#8)) := by decide
theorem witness_RandomIsMasked : Room 2 (top (mk .xochip 0#8)) := by decide
theorem witness_IndexLoadsAndAdd : Room 2 (top (mk .xochip 0#8)) ∧
    (let s := { mk .xochip 0#8 with pc := 0xFFFB#16 }; s.variant = .xochip ∧ Room 4 s) ∧
    (mk .schip 0#8).variant ≠ .xochip := by decide
theorem witness_GlyphAddresses : Room 2 (top (mk .schip 0#8)) ∧ (mk .schip 0#8).variant ≠ .chip8 ∧
    (let s := top (mk .chip8 0#8); Room 2 s ∧ s.variant = .chip8) := by decide
theorem witness_BcdWritesTheDigits :
    (let s := { mk .chip8 0#8 with index := 0xFFD#16 }; Memory.wf s.mem = true ∧ Room 2 s ∧ IndexRange 3 s) ∧
    (let s := { mk .chip8 0#8 with index := 0xFFE#16 }; Memory.wf s.mem = true ∧ ¬ IndexRange 3 s) := by decide
theorem witness_StoreDumpsTheRegisters :
    (let s := { mk .xochip 0#8 with index := 0xFFF0#16 }; Memory.wf s.mem = true ∧ Room 2 s ∧ IndexRange (15 + 1) s) ∧
    (let s := { mk .xochip 0#8 with index := 0xFFF1#16 }; Memory.wf s.mem = true ∧ ¬ IndexRange (15 + 1) s) := by decide
theorem witness_LoadFillsTheRegisters :
    (let s := { mk .chip8 0#8 with index := 0xFFF#16 }; Room 2 s ∧ IndexRange (0 + 1) s) ∧
    ¬ IndexRange (0 + 1) { mk .chip8 0#8 with index := 0x1000#16 } := by decide
theorem witness_StoreThenLoadRoundTrips :
    let s := { mk .chip8 0#8 with index := 0xFF0#16 }
    Memory.wf s.mem = true ∧ Room 2 s ∧ IndexRange (15 + 1) s ∧
      runs (.store 0xF#4) s (fun t => let u := { t with index := s.index }
        u.mem == t.mem && memSize u == memSize s && decide (Room 2 u)) = true := by decide
theorem witness_SaveRangeStoresInOrder :
    (let s := { mk .xochip 0#8 with index := 0xFFFE#16 };
      Memory.wf s.mem = true ∧ s.variant = .xochip ∧ Room 2 s ∧ IndexRange (1 + 1) s) ∧
    ¬ IndexRange (1 + 1) { mk .xochip 0#8 with index := 0xFFFF#16 } ∧ (mk .schip 0#8).variant ≠ .xochip := by decide
theorem witness_LoadRangeLoadsInOrder :
    (let s := { mk .xochip 0#8 with index := 0xFFF0#16 }; s.variant = .xochip ∧ Room 2 s ∧ IndexRange (15 + 1) s) ∧
    ¬ IndexRange (15 + 1) { mk .xochip 0#8 with index := 0xFFF1#16 } ∧ (mk .schip 0#8).variant ≠ .xochip := by decide
theorem witness_PersistentFlags : (mk .xochip 0#8).variant = .xochip ∧ Room 2 (top (mk .xochip 0#8)) ∧
    ((mk .schip 0#8).variant = .schip ∧ (7#4 : RegIdx) ≤ 7#4 ∧ (8#4 : RegIdx) ≤ 8#4) ∧
    (mk .chip8 0#8).variant = .chip8 := by decide
theorem witness_StoreIsSeenByTheNextFetch :
    let s := { mk .chip8 0#8 with index := 0x202#16 }
    Memory.wf s.mem = true ∧ Room 2 s ∧ IndexRange (1 + 1) s ∧ s.index.toNat + 0 = s.pc.toNat + 2 ∧
      runs (.store 1#4) s (fun _ => true) = true := by decide
theorem witness_ClearSelectedPlanes : Room 2 (top (mk .xochip 0#8)) := by decide
theorem witness_VerticalScrolls : Room 2 (top (mk .xochip 0#8)) ∧ (mk .schip 0#8).variant ≠ .chip8 ∧
    (mk .xochip 0#8).variant = .xochip ∧ (mk .chip8 0#8).variant = .chip8 ∧ (mk .schip 0#8).variant ≠ .xochip ∧
    (mk .xochip 0#8).planeMask.getLsbD 0 = true ∧ (mk .xochip 0#8).planeMask.getLsbD 1 = false := by decide
theorem witness_HorizontalScrolls : Room 2 (top (mk .schip 0#8)) ∧ (mk .schip 0#8).variant ≠ .chip8 ∧
    Room 2 (top (mk .chip8 0#8)) ∧ (mk .chip8 0#8).variant = .chip8 := by decide
theorem witness_ResolutionSwitchClearsAllPlanes : Room 2 (top (mk .schip 0#8)) ∧ (mk .schip 0#8).variant ≠ .chip8 ∧
    (mk .chip8 0#8).variant = .chip8 := by decide
theorem witness_PlaneSelectsTheMask : Room 2 (top (mk .xochip 0#8)) ∧ (mk .xochip 0#8).variant = .xochip ∧
    (mk .schip 0#8).variant ≠ .xochip := by decide
/-- Four planes of one row end at the last byte, or one past it; no plane reads nothing; no DXY0 in CHIP8. -/
theorem witness_DrawsComplete :
    (let s := { mk .xochip 0x20#8 with index := 0xFFFC#16, planeMask := 0xF#4 };
      (Instr.drw 0#4 1#4 1#4).legalIn s.variant = true ∧ Room 2 s ∧ IndexRange (planeRank s 4 * 1) s) ∧
    (let s := { mk .xochip 0#8 with index := 0xFFFD#16, planeMask := 0xF#4 };
      planeRank s 4 * 1 ≠ 0 ∧ ¬ IndexRange (planeRank s 4 * 1) s) ∧
    (let s := { mk .xochip 0#8 with index := 0xFFFF#16, planeMask := 0#4 };
      (Instr.drw16 0#4 1#4).legalIn s.variant = true ∧ planeRank s 4 * 32 = 0) ∧
    (mk .chip8 0#8).variant = .chip8 := by decide
theorem witness_DrawTogglesExactlyTheSprite :
    let s := { mk .schip 0x10#8 with index := 0xFE0#16 }
    Room 2 s ∧ (Instr.drw16 0#4 1#4).legalIn s.variant = true ∧ IndexRange (planeRank s 4 * 32) s := by decide
theorem witness_DrawReportsCollidedRows :
    let s := { mk .chip8 0x80#8 with index := 0xFF1#16 }
    Room 2 s ∧ (Instr.drw 0#4 1#4 0xF#4).legalIn s.variant = true ∧ IndexRange (planeRank s 4 * 15) s := by decide
theorem witness_DrawTwiceRestoresThePlanes :
    let s := at' 0x300#16 [0xFF#8] (mk .chip8 0#8)
    runs (.drw 0#4 1#4 1#4) s (fun t => let u := { t with v := s.v }
      t.fault == none && u.planes == t.planes && u.index == s.index && u.planeMask == s.planeMask && u.res == s.res &&
        u.profile == s.profile && u.mem == s.mem && runs (.drw 0#4 1#4 1#4) u (fun w => w.fault == none)) = true := by
  decide
theorem witness_TimerRegisters : Room 2 (top (mk .xochip 0#8)) := by decide
theorem witness_KeyWaitSuspends :
    let s := top (mk .xochip 0#8); Room 2 s ∧ s.fault = none ∧ s.halted = false := by decide
theorem witness_AudioRegisters :
    (let s := { mk .xochip 0#8 with index := 0xFFF0#16 }; s.variant = .xochip ∧ Room 2 s ∧ IndexRange 16 s) ∧
    ¬ IndexRange 16 { mk .xochip 0#8 with index := 0xFFF1#16 } ∧ (mk .schip 0#8).variant ≠ .xochip := by decide
/-- Edge PRESS and key 0 pressed; edge RELEASE and key 0 released; no wait. -/
theorem witness_SetKeyResolvesTheWait :
    (let s := { mk .chip8 0#8 with pending := .keyWait 0xF#4 };
      s.pending = .keyWait 0xF#4 ∧ true = (!s.profile.getLsbD 6) ∧ keyDown s 0#4 = s.profile.getLsbD 6) ∧
    (let s := { setKeyFlag (mk .chip8 0x40#8) 0#4 true with pending := .keyWait 0#4 };
      s.pending = .keyWait 0#4 ∧ false = (!s.profile.getLsbD 6) ∧ keyDown s 0#4 = s.profile.getLsbD 6) ∧
    ∀ r, (mk .chip8 0#8).pending ≠ .keyWait r := by
  refine ⟨by decide, by decide, fun r h => ?_⟩
  cases h
theorem witness_NewLeavesTheResetValues :
    (after (new 2#2 0xFF#8 { xoMemSize := 4096, stackDepth := 1 } (List.replicate 80 0#8) (List.replicate 160 0#8))).isSome =
      true := by rfl
theorem witness_LoadWritesTheProgram :
    (let s := mk .chip8 0#8; Memory.wf s.mem = true ∧ s.loaded = false ∧ s.started = false ∧
      memSize s < 0x200 + (List.replicate 3585 0#8).length ∧ 0x200 + (List.replicate 3584 0#8).length ≤ memSize s) ∧
    { mk .chip8 0#8 with started := true }.started = true ∧ { mk .chip8 0#8 with loaded := true }.loaded = true := by
  simp only [List.length_replicate]; decide
/-- A state with a program in memory and a plane selected that the Variant has, which a step and a host call change. -/
theorem witness_StepKeepsTheInvariant :
    let s := { (mk .schip 0x57#8).withFetchWord 16 0x00FF with stack := [0x202#16] }
    Inv s ∧ (after (step s)).isSome = true := by
  intro s
  have planes : ∀ (k : Fin 4) (x y : Nat), Plane.get s.planes[k] x y = false := by
    intro k x y
    have h : s.planes = Vector.replicate 4 Plane.clear := rfl
    simp [h]
  exact ⟨⟨by decide, ⟨by decide, by decide⟩, by decide,
    ⟨by decide, by decide, fun k x y _ => planes k x y, fun k x y _ => planes k x y⟩,
    ⟨by decide, by decide, by decide, by decide⟩,
    ⟨by decide, by decide, by decide, fun r h => by cases h⟩⟩, by decide⟩
/-- The state of witness_StepKeepsTheInvariant, and a tick. -/
theorem witness_EveryHostCallKeepsTheInvariant :
    (∃ s, Inv s ∧ (after (transact (.tick 1) s)).isSome = true) ∧ HostCall.tick 1 ≠ .executeOne :=
  ⟨⟨_, witness_StepKeepsTheInvariant.1, rfl⟩, by decide⟩
theorem witness_StepLeavesReadOnlyState :
    (after (step (mk .chip8 0#8))).isSome = true ∧ stopped (mk .chip8 0#8) = false := by decide
theorem witness_SpecialRegistersHaveTheirWriters :
    ([Instr.ldDt 0#4, .ldSt 0#4].all fun i => runs i (setV (mk .chip8 0#8) 0#4 1#8) fun t => t.dt != 0#8 || t.st != 0#8) =
      true := by decide
theorem witness_QuirkBitReachesOnlyItsInstructions :
    readsProfileBit 0 (.or 0#4 1#4) = false ∧ (∀ j, j ≠ 0 → (0x09#8).getLsbD j = (mk .chip8 0x08#8).profile.getLsbD j) ∧
      runs (.or 0#4 1#4) (mk .chip8 0x08#8) (fun _ => true) = true := by
  refine ⟨by decide, fun j h => ?_, by decide⟩
  by_cases hj : j < 8
  · have small : ∀ k : Fin 8, k.val ≠ 0 → (0x09#8).getLsbD k.val = (0x08#8).getLsbD k.val := by decide
    exact small ⟨j, hj⟩ h
  · rw [BitVec.getLsbD_of_ge _ _ (by omega), BitVec.getLsbD_of_ge _ _ (by omega)]

end Sys2Proof.Tests
end

section
/-! PROOF. The host's calls keep the machine invariant (00_scope R13). -/

namespace Sys2Proof.Machine

/-! ### What the invariant reads of a state that a host call changes -/

/-- The invariant says nothing of V, DT, ST, KEYS and LOADED, and speaks of MEM and PENDING in a part of its own. -/
theorem Inv.update {s : State} (h : Inv s) (v : Vector Byte 16) (dt st : Byte) (keys : BitVec 16) (loaded : Bool)
    {mem : List Host.Cell} {pending : Pending} (memory : MemorySound { s with mem })
    (stop : StopSound { s with pending }) :
    Inv { s with v, dt, st, keys, loaded, mem, pending } where
  params := h.params
  memory := ⟨memory.canonical, memory.inRange⟩
  stack := h.stack
  display := ⟨h.display.resolution, h.display.mask, h.display.window, h.display.planes⟩
  extension := ⟨h.extension.rpl, h.extension.pattern, h.extension.pitch, h.extension.halted⟩
  stop := ⟨stop.faultAlone, stop.haltAlone, stop.vblank, stop.faultPc⟩

/-- A wait may end at any time. -/
theorem StopSound.endWait {s : State} (h : StopSound s) : StopSound { s with pending := .none } where
  faultAlone hf := ⟨(h.faultAlone hf).1, rfl⟩
  haltAlone _ := rfl
  vblank := nofun
  faultPc := h.faultPc

/-! ### Bytes written within memory -/

@[simp] theorem memSize_writeRun (s : State) (a : Nat) (bs : List Byte) : memSize (writeRun s a bs) = memSize s := by
  rw [writeRun_eq]; rfl

/-- A run of writes within the address space keeps MEM sound. -/
theorem MemorySound.writeRun {s : State} (h : MemorySound s) {a : Nat} {bs : List Byte}
    (hr : a + bs.length ≤ memSize s) : MemorySound (writeRun s a bs) where
  canonical := writeRun_wf h.canonical a bs
  inRange c hc := by
    rw [memSize_writeRun]
    rcases writeRun_mem hc with old | ⟨-, new⟩
    · exact h.inRange c old
    · omega

/-- A run of writes within the address space keeps the invariant. -/
theorem Inv.writeRun {s : State} (h : Inv s) {a : Nat} {bs : List Byte} (hr : a + bs.length ≤ memSize s) :
    Inv (writeRun s a bs) := by
  have memory := h.memory.writeRun hr
  rw [writeRun_eq] at memory ⊢
  exact h.update _ _ _ _ _ memory h.stop

/-! ### new (R156, R157) -/

/-- Every pixel of a fresh machine is 0. -/
theorem get_construct_plane (v : Variant) (profile : Byte) (p : Params) (k : Fin 4) (x y : Nat) :
    Plane.get (State.construct v profile p).planes[k] x y = false := by
  have cleared : (State.construct v profile p).planes[k] = Plane.clear := Vector.getElem_replicate k.isLt
  rw [cleared, Plane.get_clear]

/-- A fresh machine meets the invariant. -/
theorem inv_construct {v : Variant} {p : Params} (profile : Byte) (h : validParams v p = true) :
    Inv (State.construct v profile p) where
  params := h
  memory := ⟨rfl, nofun⟩
  stack := Nat.zero_le _
  display := {
    resolution := fun _ => rfl
    mask := fun _ => rfl
    window := fun k x y _ => get_construct_plane v profile p k x y
    planes := fun k x y _ => get_construct_plane v profile p k x y }
  extension := {
    rpl := fun z _ => Vector.getElem_replicate z.isLt
    pattern := fun _ => rfl
    pitch := fun _ => rfl
    halted := nofun }
  stop := {
    faultAlone := fun _ => ⟨rfl, rfl⟩
    haltAlone := fun _ => rfl
    vblank := nofun
    faultPc := nofun }

/-- The least MEM_SIZE is 4096 (R6). -/
theorem le_memSizeOf {v : Variant} {p : Params} (h : validParams v p = true) : 4096 ≤ memSizeOf v p := by
  cases v with
  | chip8 => exact Nat.le_refl _
  | schip => exact Nat.le_refl _
  | xochip =>
    simp only [validParams, bne_self_eq_false, Bool.false_or, Bool.and_eq_true, decide_eq_true_eq] at h
    obtain ⟨⟨least, -⟩, -⟩ := h
    exact least

/-- The one way `new` answers a machine: valid parameters, fonts of the right size, and a fresh state with them. -/
theorem new_eq_next {code : BitVec 2} {profile : Byte} {p : Params} {small big : List Byte} {t : State}
    (h : new code profile p small big = .next t) :
    ∃ v, validParams v p = true ∧ small.length = 80 ∧ big.length = 160 ∧
      t = writeFonts (State.construct v profile p) small big := by
  simp only [new] at h
  split at h
  · cases h
  · next v _ =>
    split at h
    · next ok =>
      simp only [validFonts, Bool.and_eq_true, beq_iff_eq] at ok
      obtain ⟨hp, hs, hb⟩ := ok
      cases h
      exact ⟨v, hp, hs, hb, rfl⟩
    · cases h

theorem inv_new {code : BitVec 2} {profile : Byte} {p : Params} {small big : List Byte} {t : State}
    (h : new code profile p small big = .next t) : Inv t := by
  obtain ⟨v, hp, hs, hb, rfl⟩ := new_eq_next h
  have size : 4096 ≤ memSize (State.construct v profile p) := le_memSizeOf hp
  have small_fits : fontSmallBase + small.length ≤ memSize (State.construct v profile p) := by
    rw [fontSmallBase]; omega
  refine ((inv_construct profile hp).writeRun small_fits).writeRun ?_
  rw [memSize_writeRun, fontBigBase]; omega

/-! ### load (R160) -/

/-- The one way `load` answers a state: the program fits, and is written from 0x200. -/
theorem load_eq_next {bytes : List Byte} {s t : State} (h : load bytes s = .next t) :
    loadAddr + bytes.length ≤ memSize s ∧ t = { writeRun s loadAddr bytes with loaded := true } := by
  simp only [load] at h
  split at h
  · cases h
  · split at h
    · cases h
    · next fits => cases h; exact ⟨Nat.le_of_not_lt fits, rfl⟩

theorem Inv.load {bytes : List Byte} {s t : State} (hi : Inv s) (h : load bytes s = .next t) : Inv t := by
  obtain ⟨fits, rfl⟩ := load_eq_next h
  have written := hi.writeRun fits
  exact written.update _ _ _ _ _ written.memory written.stop

/-! ### tick and set-key (R131, R136) -/

theorem Inv.tick {s : State} (h : Inv s) (n : Nat) : Inv (tick n s) := by
  unfold Machine.tick
  split
  · exact h.update _ _ _ _ _ h.memory h.stop.endWait
  · exact h.update _ _ _ _ _ h.memory h.stop

/-- A set-key writes the key's flag, and nothing else unless it ends a key wait (R136). -/
theorem setKey_cases (k : Nibble) (pressed : Bool) (s : State) :
    setKey k pressed s = setKeyFlag s k pressed ∨
      ∃ r, setKey k pressed s = { setV (setKeyFlag s k pressed) r (k.setWidth 8) with pending := .none } := by
  unfold setKey
  split
  · next r _ =>
    split
    · exact .inr ⟨r, rfl⟩
    · exact .inl rfl
  · exact .inl rfl
  · exact .inl rfl

theorem Inv.setKey {s : State} (h : Inv s) (k : Nibble) (pressed : Bool) : Inv (setKey k pressed s) := by
  rcases setKey_cases k pressed s with flag | ⟨r, resolved⟩
  · rw [flag]; exact h.update _ _ _ _ _ h.memory h.stop
  · rw [resolved]; exact h.update _ _ _ _ _ h.memory h.stop.endWait

/-! ### Every call -/

/-- Settles O57: `new` starts afresh, `load` writes within memory, `tick` and set-key touch what the invariant does not
read and may end a wait, and the accessors change nothing. -/
theorem everyHostCallKeepsTheInvariant : Obligations.EveryHostCallKeepsTheInvariant := by
  intro c s t notStep hi h
  cases c with
  | new => exact inv_new h
  | load => exact hi.load h
  | executeOne => exact absurd rfl notStep
  | tick n => cases h; exact hi.tick n
  | setKey k pressed => cases h; exact hi.setKey k pressed
  | display => cases h; exact hi
  | audio => cases h; exact hi
  | registers => cases h; exact hi
  | memory => cases h; exact hi

end Sys2Proof.Machine
end

section
/-! PROOF. Every instruction in one form: the guards it passes, the writes it commits and its final pc (40_execute_cycle
R68 to R72); and from it everything a step can do. -/

namespace Sys2Proof.Machine

/-! ### The four parts of an instruction -/

/-- The bytes from I that the instruction accesses (R42). -/
def reach (i : Instr) (s : State) : Nat :=
  match i with
  | .drw _ _ n => selectedPlanes s * n.toNat
  | .drw16 _ _ => selectedPlanes s * 32
  | .bcd _ => 3
  | .store x | .load x => x.toNat + 1
  | .saveRange x y | .loadRange x y => rangeDistance x y + 1
  | .audio => 16
  | _ => 0

/-- A CALL with the stack full, or a RET with it empty (R73, R74). -/
def stackBlocked (i : Instr) (s : State) : Bool :=
  match i with
  | .call _ => decide (sp s = s.params.stackDepth)
  | .ret => s.stack.isEmpty
  | _ => false

/-- PATTERN after the 16 bytes at I are read into it (R140). Irreducible, so that comparing states evaluates no byte. -/
@[irreducible] def patternAtIndex (s : State) : Vector Byte 16 :=
  Vector.ofFn fun k : Fin 16 => readByte s (s.index.toNat + k.val)

/-- MEM after bytes are written from I (R48). Irreducible, so that comparing states evaluates no write. -/
@[irreducible] def memAfterRun (s : State) (bs : List Byte) : List Host.Cell := (writeRun s s.index.toNat bs).mem

/-- The state with everything written that the instruction writes, but for PC. -/
def writes (i : Instr) (s : State) : State :=
  match i with
  | .cls => clearSelected s
  | .scd n => onSelected s (Plane.scrollDown s.res n.toNat)
  | .scu n => onSelected s (Plane.scrollUp s.res n.toNat)
  | .scr => onSelected s (Plane.scrollRight s.res)
  | .scl => onSelected s (Plane.scrollLeft s.res)
  | .low => setResolution s .lores
  | .high => setResolution s .hires
  | .plane n => { s with planeMask := n }
  | .drw x y n => drawSprite s { rows := n.toNat, cols := 8 } (getV s x) (getV s y)
  | .drw16 x y => drawSprite s { rows := 16, cols := 16 } (getV s x) (getV s y)
  | .exit => { s with halted := true }
  | .call _ => { s with stack := BitVec.ofNat 16 (nextPc s) :: s.stack }
  | .ret => { s with stack := s.stack.tail }
  | .ldImm x nn => setV s x nn
  | .addImm x nn => setV s x (getV s x + nn)
  | .ldReg x y => setV s x (getV s y)
  | .or x y => { s with v := (setLogicResult s x (getV s x ||| getV s y)).v }
  | .and x y => { s with v := (setLogicResult s x (getV s x &&& getV s y)).v }
  | .xor x y => { s with v := (setLogicResult s x (getV s x ^^^ getV s y)).v }
  | .addReg x y => setResultFlag s x (getV s x + getV s y) (carryFlag (getV s x) (getV s y))
  | .sub x y => setResultFlag s x (getV s x - getV s y) (noBorrowFlag (getV s x) (getV s y))
  | .subn x y => setResultFlag s x (getV s y - getV s x) (noBorrowFlag (getV s y) (getV s x))
  | .shr x y => setResultFlag s x (shiftSource s x y >>> 1) (rightShiftFlag (shiftSource s x y))
  | .shl x y => setResultFlag s x (shiftSource s x y <<< 1) (leftShiftFlag (shiftSource s x y))
  | .rnd x nn => { setV s x (Config.rand8 s.draws &&& nn) with draws := s.draws + 1 }
  | .ldI nnn => { s with index := nnn.setWidth 16 }
  | .ldILong nnnn => { s with index := nnnn }
  | .addI x => { s with index := s.index + (getV s x).setWidth 16 }
  | .ldF x => { s with index := smallGlyph s x }
  | .ldHf x => { s with index := bigGlyph s x }
  | .bcd x => { s with mem := memAfterRun s (bcdDigits (getV s x)) }
  | .store x => { s with mem := memAfterRun s (regBytes s (runTo x)), index := indexAfterRun s x }
  | .load x => { s with v := (loadRegs s s.index.toNat (runTo x)).v, index := indexAfterRun s x }
  | .saveRange x y => { s with mem := memAfterRun s (regBytes s (rangeRegs x y)) }
  | .loadRange x y => { s with v := (loadRegs s s.index.toNat (rangeRegs x y)).v }
  | .saveFlags x => { s with rpl := (saveRpl s (runTo x)).rpl }
  | .loadFlags x => { s with v := (loadRpl s (runTo x)).v }
  | .ldVxDt x => setV s x s.dt
  | .ldDt x => { s with dt := getV s x }
  | .ldSt x => { s with st := getV s x }
  | .ldVxK x => { s with pending := .keyWait x }
  | .audio => { s with pattern := patternAtIndex s }
  | .ldPitch x => { s with pitch := getV s x }
  | .jp _ | .jpOff _ | .seImm _ _ | .sneImm _ _ | .seReg _ _ | .sneReg _ _ | .skp _ | .sknp _ => s

/-- The final pc of a conditional skip (R75). -/
def pcAfterSkip (s : State) (cond : Bool) : Nat := if cond then skipPc s else nextPc s

/-- The final pc, unbounded (R68). -/
def finalPc (i : Instr) (s : State) : Nat :=
  match i with
  | .jp nnn | .call nnn => nnn.toNat
  | .ret => (s.stack.headD 0#16).toNat
  | .jpOff nnn => nnn.toNat + (jumpOffset s nnn).toNat
  | .seImm x nn => pcAfterSkip s (getV s x == nn)
  | .sneImm x nn => pcAfterSkip s (getV s x != nn)
  | .seReg x y => pcAfterSkip s (getV s x == getV s y)
  | .sneReg x y => pcAfterSkip s (getV s x != getV s y)
  | .skp x => pcAfterSkip s (keyDown s (lowNibble (getV s x)))
  | .sknp x => pcAfterSkip s (!keyDown s (lowNibble (getV s x)))
  | .ldILong _ => s.pc.toNat + 4
  | _ => nextPc s

/-- A run of writes from I changes MEM alone. -/
theorem writeRun_index (s : State) (bs : List Byte) :
    writeRun s s.index.toNat bs = { s with mem := memAfterRun s bs } := by
  rw [memAfterRun, ← writeRun_eq]

/-- OR, AND and XOR write V alone. -/
theorem setLogicResult_eq (s : State) (x : RegIdx) (b : Byte) :
    setLogicResult s x b = { s with v := (setLogicResult s x b).v } := by
  unfold setLogicResult; cases logicQuirk s <;> rfl

/-- CALL by the test that `stackBlocked` makes. -/
theorem execCall_eq (nnn : Addr12) (s : State) :
    execCall nnn s = if decide (sp s = s.params.stackDepth) then stackFault (.call nnn) s
      else commit (.call nnn) s { s with stack := BitVec.ofNat 16 (nextPc s) :: s.stack } nnn.toNat := by
  simp only [execCall, decide_eq_true_eq]

/-- RET by the head and the tail of the stack, where it has them. -/
theorem execRet_eq (s : State) :
    execRet s = if s.stack.isEmpty then stackFault .ret s
      else commit .ret s { s with stack := s.stack.tail } (s.stack.headD 0#16).toNat := by
  unfold execRet
  split
  · next empty => simp [empty]
  · next top rest nonempty => simp [nonempty]

/-- Every instruction checks its legality, then its bytes from I, then the stack, and commits its writes and its
final pc. -/
theorem exec_eq (i : Instr) (s : State) :
    exec i s = requireLegal i s (requireRange i s s.index.toNat (reach i s)
      (if stackBlocked i s then stackFault i s else commit i s (writes i s) (finalPc i s))) := by
  cases i with
  | or x y => exact congrArg (advance (.or x y) s) (setLogicResult_eq ..)
  | and x y => exact congrArg (advance (.and x y) s) (setLogicResult_eq ..)
  | xor x y => exact congrArg (advance (.xor x y) s) (setLogicResult_eq ..)
  | ret => rw [exec, execRet_eq]; rfl
  | call nnn => rw [exec, execCall_eq]; rfl
  | bcd x => rw [exec, execBcd, writeRun_index]; rfl
  | store x => rw [exec, execStore, writeRun_index]; rfl
  | saveRange x y => rw [exec, execSaveRange, writeRun_index]; rfl
  | audio => rw [exec, execAudio, ← patternAtIndex]; rfl
  | load x => rw [exec, execLoad, loadRegs_eq]; rfl
  | loadRange x y => rw [exec, execLoadRange, loadRegs_eq]; rfl
  | saveFlags x => rw [exec, execSaveFlags, saveRpl_eq]; rfl
  | loadFlags x => rw [exec, execLoadFlags, loadRpl_eq]; rfl
  | _ => rfl

/-! ### Everything an instruction and a step can do -/

/-- `t` is `s` with a sound fault record that names PC (R147, R149). -/
def Faults (s t : State) : Prop :=
  ∃ kind word addr, FaultRecord.sound { kind, pc := s.pc, word, addr } ∧ t = raise s kind word addr

/-- The instruction passes its guards in `s` and commits `t`. -/
structure Commits (i : Instr) (s t : State) : Prop where
  legal   : i.legalIn s.variant = true
  inRange : checkRange s s.index.toNat (reach i s) = none
  stack   : stackBlocked i s = false
  result  : t = { writes i s with pc := BitVec.ofNat 16 (finalPc i s) }

theorem faults_addressFault (s : State) (word : Option Word) (addr : Nat) :
    Faults s (raise s .addressFault word (some addr)) := ⟨_, _, _, by simp [FaultRecord.sound], rfl⟩

theorem faults_illegalInstruction (s : State) (word : Word) :
    Faults s (raise s .illegalInstruction (some word) none) := ⟨_, _, _, by simp [FaultRecord.sound], rfl⟩

theorem faults_stackFault (s : State) (word : Word) :
    Faults s (raise s .stackFault (some word) none) := ⟨_, _, _, by simp [FaultRecord.sound], rfl⟩

/-- Everything an instruction can do. -/
theorem exec_cases {i : Instr} {s t : State} (h : exec i s = .next t) : Faults s t ∨ Commits i s t := by
  rw [exec_eq] at h
  obtain ⟨legal, e⟩ | ⟨-, e⟩ := requireLegal_cases i s _ <;> rw [e] at h
  · obtain ⟨inRange, e⟩ | ⟨bad, -, e⟩ := requireRange_cases i s _ _ _ <;> rw [e] at h
    · split at h
      · cases h; exact .inl (faults_stackFault s _)
      · next ready =>
        obtain ⟨-, e⟩ | ⟨-, e⟩ := commit_cases i s (writes i s) (finalPc i s) <;> rw [e] at h <;> cases h
        · exact .inr ⟨legal, inRange, Bool.eq_false_of_not_eq_true ready, rfl⟩
        · exact .inl (faults_addressFault s _ _)
    · cases h; exact .inl (faults_addressFault s _ _)
  · cases h; exact .inl (faults_illegalInstruction s _)

/-- A fault of the fetch or the decode is a sound one. -/
theorem faults_of_fetch {s t : State} (h : fetch s = .raised t) : Faults s t := by
  simp only [fetch, fetchExtension] at h
  split at h
  · cases h; exact faults_addressFault s _ _
  · split at h
    · cases h; exact faults_illegalInstruction s _
    · split at h
      · split at h <;> cases h
        exact faults_addressFault s _ _
      · cases h

theorem cycle_cases {s t : State} (h : cycle s = .next t) : Faults s t ∨ ∃ i, Commits i s t := by
  simp only [cycle] at h
  split at h
  · next raised => cases h; exact .inl (faults_of_fetch raised)
  · next i _ => exact (exec_cases h).imp_right fun c => ⟨i, c⟩

/-- Everything a step can do: it stays in a stop state, or with STARTED set it faults or commits an instruction. -/
theorem step_cases {s t : State} (h : step s = .next t) :
    (stopped s = true ∧ t = s) ∨
      stopped s = false ∧
        (Faults { s with started := true } t ∨ ∃ i, Commits i { s with started := true } t) := by
  cases hs : stopped s
  · rw [step_of_running hs] at h; exact .inr ⟨rfl, cycle_cases h⟩
  · rw [step_of_stopped hs] at h; cases h; exact .inl ⟨rfl, rfl⟩

end Sys2Proof.Machine
end

section
/-! PROOF. Who writes what: the state no instruction writes, and the writers of each special register (10_state). -/

namespace Sys2Proof.Machine

/-! ### What no instruction writes (R20, R21, R23, R30, R33, R34, R35) -/

@[simp] theorem writes_variant (i : Instr) (s : State) : (writes i s).variant = s.variant := by cases i <;> rfl
@[simp] theorem writes_profile (i : Instr) (s : State) : (writes i s).profile = s.profile := by cases i <;> rfl
@[simp] theorem writes_params (i : Instr) (s : State) : (writes i s).params = s.params := by cases i <;> rfl
@[simp] theorem writes_keys (i : Instr) (s : State) : (writes i s).keys = s.keys := by cases i <;> rfl
@[simp] theorem writes_fault (i : Instr) (s : State) : (writes i s).fault = s.fault := by cases i <;> rfl
@[simp] theorem writes_loaded (i : Instr) (s : State) : (writes i s).loaded = s.loaded := by cases i <;> rfl
@[simp] theorem writes_started (i : Instr) (s : State) : (writes i s).started = s.started := by cases i <;> rfl

/-- Settles O58: a stop state stays, a fault writes FAULT alone, and no instruction's writes touch these fields. -/
theorem stepLeavesReadOnlyState : Obligations.StepLeavesReadOnlyState := by
  intro s t h
  obtain ⟨stop, rfl⟩ | ⟨-, ⟨kind, word, addr, -, rfl⟩ | ⟨i, commits⟩⟩ := step_cases h
  · simp [stop]
  · simp
  · simp [commits.result]

/-! ### The writers of VF (R15) -/

/-- A write of one register changes VF only if it names VF. -/
theorem eq_vf_of_setV {s : State} {x : RegIdx} {b : Byte} (h : getV (setV s x b) 0xF#4 ≠ getV s 0xF#4) :
    (x == 0xF#4) = true := by
  by_contra hx
  simp only [beq_iff_eq] at hx
  simp [Ne.symm hx] at h

/-- OR, AND and XOR change VF only if they name it, or where the logic quirk clears it (R90). -/
theorem vf_setLogicResult {s : State} {x : RegIdx} {b : Byte}
    (h : getV (setLogicResult s x b) 0xF#4 ≠ getV s 0xF#4) : (s.profile.getLsbD 3 || x == 0xF#4) = true := by
  cases quirk : s.profile.getLsbD 3
  · simp only [setLogicResult, logicQuirk, quirk] at h
    exact eq_vf_of_setV h
  · rfl

theorem vf_mem_of_loadRegs {s : State} {a : Nat} {xs : List RegIdx}
    (h : getV (loadRegs s a xs) 0xF#4 ≠ getV s 0xF#4) : 0xF#4 ∈ xs := by
  by_contra hx; exact h (getV_loadRegs_of_notMem hx)

theorem vf_mem_of_loadRpl {s : State} {xs : List RegIdx}
    (h : getV (loadRpl s xs) 0xF#4 ≠ getV s 0xF#4) : 0xF#4 ∈ xs := by
  by_contra hx; simp [getV_loadRpl, hx] at h

/-- V0..V[x] holds VF only for x = 0xF. -/
theorem eq_vf_of_mem_runTo {x : RegIdx} (h : 0xF#4 ∈ runTo x) : (x == 0xF#4) = true := by
  revert x; decide

/-- A register range holds VF only at an end. -/
theorem eq_vf_of_mem_rangeRegs {x y : RegIdx} (h : 0xF#4 ∈ rangeRegs x y) : (x == 0xF#4 || y == 0xF#4) = true := by
  revert x y; decide

theorem writer_of_vf {i : Instr} {s : State} (h : getV (writes i s) 0xF#4 ≠ getV s 0xF#4) :
    mayWriteVF s i = true := by
  cases i with
  | addReg | sub | subn | shr | shl | drw | drw16 => rfl
  | or | and | xor => exact vf_setLogicResult h
  | ldImm | addImm | ldReg | rnd | ldVxDt => exact eq_vf_of_setV h
  | load => exact eq_vf_of_mem_runTo (vf_mem_of_loadRegs h)
  | loadFlags => exact eq_vf_of_mem_runTo (vf_mem_of_loadRpl h)
  | loadRange => exact eq_vf_of_mem_rangeRegs (vf_mem_of_loadRegs h)
  | _ => exact (h rfl).elim

/-! ### The writers of the other special registers -/

section
variable {i : Instr} {s : State}

theorem writer_of_dt (h : (writes i s).dt ≠ s.dt) : ∃ x, i = .ldDt x := by
  cases i with
  | ldDt => simp
  | _ => exact (h rfl).elim

theorem writer_of_st (h : (writes i s).st ≠ s.st) : ∃ x, i = .ldSt x := by
  cases i with
  | ldSt => simp
  | _ => exact (h rfl).elim

theorem writer_of_pitch (h : (writes i s).pitch ≠ s.pitch) : ∃ x, i = .ldPitch x := by
  cases i with
  | ldPitch => simp
  | _ => exact (h rfl).elim

theorem writer_of_pattern (h : (writes i s).pattern ≠ s.pattern) : i = .audio := by
  cases i with
  | audio => rfl
  | _ => exact (h rfl).elim

theorem writer_of_rpl (h : (writes i s).rpl ≠ s.rpl) : ∃ x, i = .saveFlags x := by
  cases i with
  | saveFlags => simp
  | _ => exact (h rfl).elim

theorem writer_of_planeMask (h : (writes i s).planeMask ≠ s.planeMask) : ∃ n, i = .plane n := by
  cases i with
  | plane => simp
  | _ => exact (h rfl).elim

theorem writer_of_res (h : (writes i s).res ≠ s.res) : i = .low ∨ i = .high := by
  cases i with
  | low | high => simp
  | _ => exact (h rfl).elim

theorem writer_of_halted (h : (writes i s).halted ≠ s.halted) : i = .exit := by
  cases i with
  | exit => rfl
  | _ => exact (h rfl).elim

theorem writer_of_stack (h : (writes i s).stack ≠ s.stack) : (∃ nnn, i = .call nnn) ∨ i = .ret := by
  cases i with
  | call | ret => simp
  | _ => exact (h rfl).elim

theorem writer_of_pending (h : (writes i s).pending ≠ s.pending) :
    (∃ x, i = .ldVxK x) ∨ (∃ x y n, i = .drw x y n) ∨ ∃ x y, i = .drw16 x y := by
  cases i with
  | ldVxK | drw | drw16 => simp
  | _ => exact (h rfl).elim

theorem writer_of_mem (h : (writes i s).mem ≠ s.mem) :
    (∃ x, i = .bcd x) ∨ (∃ x, i = .store x) ∨ ∃ x y, i = .saveRange x y := by
  cases i with
  | bcd | store | saveRange => simp
  | _ => exact (h rfl).elim

theorem writer_of_planes (h : (writes i s).planes ≠ s.planes) :
    i = .cls ∨ (∃ n, i = .scd n) ∨ (∃ n, i = .scu n) ∨ i = .scr ∨ i = .scl ∨ i = .low ∨ i = .high ∨
      (∃ x y n, i = .drw x y n) ∨ ∃ x y, i = .drw16 x y := by
  cases i with
  | cls | scd | scu | scr | scl | low | high | drw | drw16 => simp
  | _ => exact (h rfl).elim

theorem writer_of_index (h : (writes i s).index ≠ s.index) :
    (∃ nnn, i = .ldI nnn) ∨ (∃ nnnn, i = .ldILong nnnn) ∨ (∃ x, i = .addI x) ∨ (∃ x, i = .ldF x) ∨
      (∃ x, i = .ldHf x) ∨ (∃ x, i = .store x) ∨ ∃ x, i = .load x := by
  cases i with
  | ldI | ldILong | addI | ldF | ldHf | store | load => simp
  | _ => exact (h rfl).elim

end

/-- Settles O59: a fault writes none of the registers, and a commit writes them as the lemmas above say. -/
theorem specialRegistersHaveTheirWriters : Obligations.SpecialRegistersHaveTheirWriters := by
  intro i s t h
  obtain ⟨kind, word, addr, -, rfl⟩ | commits := exec_cases h
  · simp [getV]
  · obtain rfl := commits.result
    exact ⟨writer_of_vf, writer_of_dt, writer_of_st, writer_of_pitch, writer_of_pattern, writer_of_rpl,
      writer_of_planeMask, writer_of_res, writer_of_halted, writer_of_stack, writer_of_pending, writer_of_mem,
      writer_of_planes, writer_of_index⟩

end Sys2Proof.Machine
end

section
/-! PROOF. Every step keeps the machine invariant (10_state R18, R24 to R33; 60_exceptions R147, R149). -/

namespace Sys2Proof.Machine

/-! ### What a Variant has (R6, R54) -/

theorem fromSchip_iff {v : Variant} : fromSchip v = true ↔ v ≠ .chip8 := by cases v <;> simp [fromSchip]

theorem onlyXochip_iff {v : Variant} : onlyXochip v = true ↔ v = .xochip := by cases v <;> simp [onlyXochip]

theorem resCeiling_eq_lores {v : Variant} : resCeiling v = .lores ↔ v = .chip8 := by cases v <;> simp [resCeiling]

theorem planeCeiling_eq_one {v : Variant} : planeCeiling v = 1 ↔ v ≠ .xochip := by cases v <;> simp [planeCeiling]

/-! ### A step that commits nothing -/

/-- FAULT and STARTED matter to the invariant's part on the stop states alone. -/
theorem Inv.mark {s : State} (h : Inv s) {fault : Option FaultRecord} {started : Bool}
    (stop : StopSound { s with fault, started }) : Inv { s with fault, started } where
  params := h.params
  memory := ⟨h.memory.canonical, h.memory.inRange⟩
  stack := h.stack
  display := ⟨h.display.resolution, h.display.mask, h.display.window, h.display.planes⟩
  extension := ⟨h.extension.rpl, h.extension.pattern, h.extension.pitch, h.extension.halted⟩
  stop := stop

theorem Inv.start {s : State} (h : Inv s) : Inv { s with started := true } :=
  h.mark ⟨h.stop.faultAlone, h.stop.haltAlone, h.stop.vblank, h.stop.faultPc⟩

/-- Outside the stop states there is no fault, no halt and no wait. -/
theorem stopped_eq_false {s : State} :
    stopped s = false ↔ s.fault = none ∧ s.halted = false ∧ s.pending = .none := by
  simp [stopped, and_assoc]

/-- A fault taken outside the stop states keeps the invariant. -/
theorem Inv.faults {s t : State} (h : Inv s) (running : stopped s = false) (faults : Faults s t) : Inv t := by
  obtain ⟨-, halted, pending⟩ := stopped_eq_false.mp running
  obtain ⟨kind, word, addr, sound, rfl⟩ := faults
  exact h.mark {
    faultAlone := fun _ => ⟨halted, pending⟩
    haltAlone := fun _ => pending
    vblank := h.stop.vblank
    faultPc := fun r hr => by cases hr; exact ⟨rfl, sound⟩ }

/-! ### MEM and the stack -/

/-- Bytes written from I inside the checked range keep MEM sound. -/
theorem MemorySound.memAfterRun {s : State} (h : MemorySound s) {n : Nat} {bs : List Byte}
    (inRange : checkRange s s.index.toNat n = none) (length : bs.length = n) (positive : n ≠ 0) :
    MemorySound { s with mem := memAfterRun s bs } := by
  have fits : s.index.toNat + n ≤ memSize s := (checkRange_eq_none.mp inRange).resolve_left positive
  rw [← writeRun_index]
  exact h.writeRun (length ▸ fits)

theorem MemorySound.writes {i : Instr} {s : State} (h : MemorySound s)
    (inRange : checkRange s s.index.toNat (reach i s) = none) : MemorySound (writes i s) := by
  cases i with
  | bcd x => exact h.memAfterRun inRange rfl (Nat.succ_ne_zero 2)
  | store x =>
    have written := h.memAfterRun (bs := regBytes s (runTo x)) (n := x.toNat + 1) inRange
      (by simp [regBytes, length_runTo]) (Nat.succ_ne_zero _)
    exact ⟨written.canonical, written.inRange⟩
  | saveRange x y =>
    exact h.memAfterRun (n := rangeDistance x y + 1) inRange (by simp [regBytes, length_rangeRegs])
      (Nat.succ_ne_zero _)
  | _ => exact ⟨h.canonical, h.inRange⟩

/-- CALL pushes where the stack is not full, and RET leaves it shorter (R18, R73, R74). -/
theorem sp_writes_le {i : Instr} {s : State} (h : sp s ≤ s.params.stackDepth) (ready : stackBlocked i s = false) :
    sp (writes i s) ≤ s.params.stackDepth := by
  cases i with
  | call nnn => exact Nat.lt_of_le_of_ne h (of_decide_eq_false ready)
  | ret =>
    have shorter : sp (writes .ret s) = sp s - 1 := List.length_tail
    omega
  | _ => exact h

/-! ### The display -/

/-- Planes rewritten so that what was 0 outside the window, or in a plane that PLANE_MASK does not select, is still 0
keep the display sound. -/
theorem DisplaySound.replacePlanes {s : State} (h : DisplaySound s) {planes : Vector Plane 4}
    (kept : ∀ (k : Fin 4) (x y : Nat), ¬ inWindow s x y ∨ s.planeMask.getLsbD k = false →
      Plane.get s.planes[k] x y = false → Plane.get planes[k] x y = false) :
    DisplaySound { s with planes } where
  resolution := h.resolution
  mask := h.mask
  window k x y outside := kept k x y (.inl outside) (h.window k x y outside)
  planes k x y past := by
    refine kept k x y (.inr ?_) (h.planes k x y past)
    have one : planeCeiling s.variant = 1 := by
      refine planeCeiling_eq_one.mpr fun xochip => ?_
      rw [xochip, planeCeiling] at past
      omega
    have bit : ∀ j : Fin 4, 1 ≤ j.val → (0x1#4).getLsbD j = false := by decide
    rw [h.mask one]
    exact bit k (one ▸ past)

/-- An operation on the selected planes that sets no pixel outside the window keeps the display sound. -/
theorem DisplaySound.onSelected {s : State} (h : DisplaySound s) {f : Plane → Plane}
    (outside : ∀ p x y, ¬ inWindow s x y → Plane.get p x y = false → Plane.get (f p) x y = false) :
    DisplaySound (onSelected s f) := by
  refine h.replacePlanes (planes := (Machine.onSelected s f).planes) fun k x y place unset => ?_
  rw [onSelected_plane]
  split
  · next selected =>
    refine outside _ x y (place.resolve_right ?_) unset
    simp [selected]
  · exact unset

/-- A windowed map sets no pixel outside the window. -/
theorem Plane.get_mapWindow_outside {s : State} {p : Plane} {f : Nat → BitVec 128} {x y : Nat}
    (outside : ¬ inWindow s x y) (unset : Plane.get p x y = false) :
    Plane.get (Plane.mapWindow p s.res f) x y = false :=
  (Plane.get_mapWindow ..).trans ((if_neg outside).trans unset)

/-- Selecting a resolution that the Variant has keeps the display sound: every plane is cleared (R113). -/
theorem DisplaySound.setResolution {s : State} (h : DisplaySound s) {mode : Resolution}
    (allowed : resCeiling s.variant = .lores → mode = .lores) : DisplaySound (setResolution s mode) := by
  have cleared : ∀ (k : Fin 4) (x y : Nat), Plane.get (Machine.setResolution s mode).planes[k] x y = false := by
    intro k x y
    have plane : (Machine.setResolution s mode).planes[k] = Plane.clear := Vector.getElem_replicate k.isLt
    rw [plane, Plane.get_clear]
  exact ⟨allowed, h.mask, fun k x y _ => cleared k x y, fun k x y _ => cleared k x y⟩

/-- A sprite no larger than the smallest window keeps the display sound: its dots fall in the window, on selected
planes (R116, R117). -/
theorem DisplaySound.drawSprite {s : State} (h : DisplaySound s) {z : SpriteSize} (rows : z.rows ≤ 32)
    (cols : z.cols ≤ 64) (cx cy : Byte) : DisplaySound (drawSprite s z cx cy) := by
  have height_le : z.rows ≤ height s.res := rows.trans (by cases s.res <;> decide)
  have width_le : z.cols ≤ width s.res := cols.trans (by cases s.res <;> decide)
  have drawn := h.replacePlanes (planes := drawnPlanes s z cx cy) fun k x y place unset => by
    rw [get_drawnPlanes height_le width_le, unset, Bool.false_xor]
    rcases place with outside | unselected
    · have noDot : (x, y) ∉ (planeDots s z cx cy k).map Dot.pos := by
        intro dot
        obtain ⟨d, hd, pos⟩ := List.mem_map.mp dot
        obtain ⟨rfl, rfl⟩ := Prod.mk.inj pos
        exact outside (mem_spriteDots_window hd)
      rw [decide_eq_false noDot, Bool.and_false]
    · rw [unselected, Bool.false_and]
  exact ⟨drawn.resolution, drawn.mask, drawn.window, drawn.planes⟩

theorem DisplaySound.writes {i : Instr} {s : State} (h : DisplaySound s) (legal : i.legalIn s.variant = true) :
    DisplaySound (writes i s) := by
  cases i with
  | cls => exact h.onSelected fun _ _ _ _ _ => Plane.get_clear ..
  | scd | scu | scr | scl => exact h.onSelected fun _ _ _ => Plane.get_mapWindow_outside
  | low => exact h.setResolution fun _ => rfl
  | high => exact h.setResolution fun ceiling => absurd (resCeiling_eq_lores.mp ceiling) (fromSchip_iff.mp legal)
  | plane n =>
    exact ⟨h.resolution, fun ceiling => absurd (onlyXochip_iff.mp legal) (planeCeiling_eq_one.mp ceiling), h.window,
      h.planes⟩
  | drw x y n => exact h.drawSprite (n.isLt.le.trans (by decide)) (Nat.le_add_left 8 56) _ _
  | drw16 x y => exact h.drawSprite (by decide) (by decide) _ _
  | _ => exact ⟨h.resolution, h.mask, h.window, h.planes⟩

/-! ### What only extensions reach -/

/-- A legal FX75 writes no byte of RPL past RPL_COUNT (R28, R54). -/
theorem getRpl_saveFlags {x z : RegIdx} {s : State} (legal : (Instr.saveFlags x).legalIn s.variant = true)
    (past : rplCount s.variant ≤ z.toNat) : getRpl (writes (.saveFlags x) s) z = getRpl s z := by
  have below : x.toNat < rplCount s.variant := of_decide_eq_true legal
  have notSaved : z ∉ runTo x := by rw [mem_runTo, BitVec.le_def]; omega
  exact (getRpl_saveRpl s (runTo x) z).trans (if_neg notSaved)

theorem ExtensionSound.writes {i : Instr} {s : State} (h : ExtensionSound s) (legal : i.legalIn s.variant = true) :
    ExtensionSound (writes i s) := by
  cases i with
  | saveFlags x =>
    exact ⟨fun z past => (getRpl_saveFlags legal past).trans (h.rpl z past), h.pattern, h.pitch, h.halted⟩
  | audio => exact ⟨h.rpl, fun other => absurd (onlyXochip_iff.mp legal) other, h.pitch, h.halted⟩
  | ldPitch x => exact ⟨h.rpl, h.pattern, fun other => absurd (onlyXochip_iff.mp legal) other, h.halted⟩
  | exit => exact ⟨h.rpl, h.pattern, h.pitch, fun _ => fromSchip_iff.mp legal⟩
  | _ => exact ⟨h.rpl, h.pattern, h.pitch, h.halted⟩

/-! ### The stop states -/

/-- Only a draw under vblank quirk WAIT leaves a vblank wait (R31, R121). -/
theorem vblankQuirk_of_drawSprite {s : State} {z : SpriteSize} {cx cy : Byte} (pending : s.pending = .none)
    (waits : (drawSprite s z cx cy).pending = .vblankWait) : vblankQuirk s = .wait := by
  cases quirk : vblankQuirk s with
  | wait => rfl
  | noWait => simp [drawSprite, quirk, pending] at waits

/-- An instruction that leaves a vblank wait is a draw under vblank quirk WAIT. -/
theorem vblankQuirk_of_writes {i : Instr} {s : State} (pending : s.pending = .none)
    (waits : (writes i s).pending = .vblankWait) : vblankQuirk s = .wait := by
  have changed : (writes i s).pending ≠ s.pending := by simp [waits, pending]
  obtain ⟨x, rfl⟩ | ⟨x, y, n, rfl⟩ | ⟨x, y, rfl⟩ := writer_of_pending changed
  · cases waits
  · exact vblankQuirk_of_drawSprite pending waits
  · exact vblankQuirk_of_drawSprite pending waits

/-- An instruction that halts is EXIT, which starts no wait (R84). -/
theorem pending_of_writes {i : Instr} {s : State} (halted : s.halted = false) (pending : s.pending = .none)
    (halts : (writes i s).halted = true) : (writes i s).pending = .none := by
  obtain rfl : i = .exit := writer_of_halted (s := s) (by simp [halts, halted])
  exact pending

/-- Outside the stop states an instruction enters at most one of them, wherever its PC goes (R155). -/
theorem StopSound.writes {i : Instr} {s : State} (running : stopped s = false) (pc : Word) :
    StopSound { writes i s with pc } := by
  obtain ⟨fault, halted, pending⟩ := stopped_eq_false.mp running
  have noFault : (Machine.writes i s).fault = none := (writes_fault i s).trans fault
  have quirk : vblankQuirk { Machine.writes i s with pc } = vblankQuirk s := by simp [vblankQuirk]
  exact {
    faultAlone := fun faulted => absurd noFault faulted
    haltAlone := pending_of_writes halted pending
    vblank := fun waits => quirk.trans (vblankQuirk_of_writes pending waits)
    faultPc := fun _ faulted => nomatch noFault.symm.trans faulted }

/-! ### Every step -/

/-- What an instruction commits outside the stop states keeps the invariant. -/
theorem Inv.commits {i : Instr} {s t : State} (h : Inv s) (running : stopped s = false) (commits : Commits i s t) :
    Inv t := by
  obtain ⟨legal, inRange, ready, rfl⟩ := commits
  have memory := h.memory.writes inRange
  have display := h.display.writes legal
  have extension := h.extension.writes legal
  exact {
    params := by simpa using h.params
    memory := ⟨memory.canonical, memory.inRange⟩
    stack := by simpa [sp] using sp_writes_le h.stack ready
    display := ⟨display.resolution, display.mask, display.window, display.planes⟩
    extension := ⟨extension.rpl, extension.pattern, extension.pitch, extension.halted⟩
    stop := StopSound.writes running _ }

/-- Settles O56: a stop state stays as it is; from any other state, with STARTED set, the step takes a fault or commits
an instruction, and both keep every part of the invariant. -/
theorem stepKeepsTheInvariant : Obligations.StepKeepsTheInvariant := by
  intro s t h stepped
  obtain ⟨-, rfl⟩ | ⟨running, faults | ⟨i, commits⟩⟩ := step_cases stepped
  · exact h
  · exact h.start.faults running faults
  · exact h.start.commits running commits

end Sys2Proof.Machine
end

section
/-! PROOF. Decode after encode: the decoder reads every well-formed instruction back from its bytes (30_encoding R53 to
R58). -/

namespace Sys2Proof

/-! ### The row that a packed word selects -/

/-- The opcodes whose operand is a 12-bit address select their row by the first nibble. -/
theorem decodeRow_packNNN (o : Nibble) (nnn : Addr12) (nnnn : Word) :
    decodeRow (packNNN o nnn) nnnn =
      decodeFields o (nnn.extractLsb' 8 4) (nnn.extractLsb' 4 4) (nnn.extractLsb' 0 4) nnnn := by
  rw [packNNN, decodeRow_pack]

/-- The opcodes with a register and an 8-bit immediate select their row by the first nibble. -/
theorem decodeRow_packXNN (o : Nibble) (x : RegIdx) (nn : Byte) (nnnn : Word) :
    decodeRow (packXNN o x nn) nnnn = decodeFields o x (hiNN nn) (loNN nn) nnnn := by
  rw [packXNN, decodeRow_pack]

/-- The row DXYN has every count but 0, which is the row DXY0 (R55). -/
theorem decodeFields_drw {x y : RegIdx} {n : Nibble} (nonzero : n ≠ 0#4) (nnnn : Word) :
    decodeFields 0xD#4 x y n nnnn = some (.drw x y n) := by
  simp only [decodeFields]

/-- The word F000 selects F000 NNNN. -/
theorem decodeRow_long (nnnn : Word) : decodeRow 0xF000#16 nnnn = some (.ldILong nnnn) := rfl

/-- A well-formed instruction of one word is the one its word selects, whatever the operand of F000 NNNN. -/
theorem decodeRow_firstWord {i : Instr} (wf : i.wf = true) (short : laterWords i = []) (nnnn : Word) :
    decodeRow (firstWord i) nnnn = some i := by
  cases i with
  | ldILong _ => cases short
  | drw x y n => rw [firstWord, decodeRow_pack, decodeFields_drw (by simpa [Instr.wf] using wf)]
  | jp nnn | call nnn | ldI nnn | jpOff nnn =>
    rw [firstWord, decodeRow_packNNN]
    simp [decodeFields]
  | seImm x nn | sneImm x nn | ldImm x nn | addImm x nn | rnd x nn =>
    rw [firstWord, decodeRow_packXNN]
    simp [decodeFields]
  | cls | ret | scr | scl | exit | low | high | audio => rfl
  | _ => rw [firstWord, decodeRow_pack]; rfl

/-- The first word of a well-formed instruction is F000 for F000 NNNN alone. -/
theorem firstWord_ne_long {i : Instr} (wf : i.wf = true) (short : laterWords i = []) : firstWord i ≠ 0xF000#16 := by
  intro long
  have row := decodeRow_firstWord wf short 0#16
  rw [long, decodeRow_long] at row
  cases row
  cases short

/-! ### The bytes of an instruction (R39, R51) -/

theorem encodeBytes_of_short {i : Instr} (short : laterWords i = []) : encodeBytes i = bytesOfWord (firstWord i) := by
  simp [encodeBytes, encode, short]

theorem encodeBytes_ldILong (nnnn : Word) :
    encodeBytes (.ldILong nnnn) = 0xF0#8 :: 0x00#8 :: bytesOfWord nnnn := by
  simp [encodeBytes, encode, firstWord, laterWords, bytesOfWord]

/-- Decoding the bytes of a word that is not F000 consumes those bytes alone. -/
theorem decodeBytes_bytesOfWord {v : Variant} {w : Word} {i : Instr} (decoded : decode v w 0#16 = some i)
    (notLong : w ≠ 0xF000#16) (rest : List Byte) : decodeBytes v (bytesOfWord w ++ rest) = .ok (i, rest) := by
  simp [bytesOfWord, decodeBytes, decoded, isLong, notLong]

/-- In the Variant that has F000 NNNN, the second word is its operand (R58). -/
theorem decodeBytes_ldILong (nnnn : Word) (rest : List Byte) :
    decodeBytes .xochip (encodeBytes (.ldILong nnnn) ++ rest) = .ok (.ldILong nnnn, rest) := by
  have first : wordOfBytes 0xF0#8 0x00#8 = 0xF000#16 := rfl
  have row : decode .xochip 0xF000#16 0#16 = some (.ldILong 0#16) :=
    decode_eq_some.mpr ⟨decodeRow_long _, rfl⟩
  rw [encodeBytes_ldILong]
  simp [decodeBytes, first, row, isLong, onlyXochip, bytesOfWord]

/-! ### The round trip -/

/-- Settles O2: an instruction of one word is the one its row selects and its word is not F000, so its two bytes are
consumed; F000 NNNN is legal in XOCHIP alone, where four are. -/
theorem decodeOfEncodeIsTheInstruction : Obligations.DecodeOfEncodeIsTheInstruction := by
  intro v i rest wf legal
  have ofShort (short : laterWords i = []) : decodeBytes v (encodeBytes i ++ rest) = .ok (i, rest) := by
    rw [encodeBytes_of_short short]
    exact decodeBytes_bytesOfWord (decode_eq_some.mpr ⟨decodeRow_firstWord wf short _, legal⟩)
      (firstWord_ne_long wf short) rest
  cases i with
  | ldILong nnnn =>
    obtain rfl : v = .xochip := Machine.onlyXochip_iff.mp legal
    exact decodeBytes_ldILong nnnn rest
  | _ => exact ofShort rfl

end Sys2Proof
end

section
/-! PROOF. STORE and the fetch after it: the bytes stored are the bytes fetched (20_memory R47, 43_index_memory R105). -/

namespace Sys2Proof.Machine

/-- STORE in range and below the last word: the registers' bytes from I, I under its quirk, PC to the next
instruction (R105). -/
theorem exec_store_of_range {x : RegIdx} {s : State} (room : Room 2 s) (range : IndexRange (x.toNat + 1) s) :
    exec (.store x) s = .next { s with
      mem := memAfterRun s (regBytes s (runTo x)), index := indexAfterRun s x, pc := s.pc + 2#16 } := by
  rw [exec, execStore, requireRange_of_none (checkRange_eq_none.mpr (.inr range)), advance_of_lt room, writeRun_index]

/-- Reading after a run of writes from I. -/
theorem readByte_of_mem_eq_memAfterRun {s t : State} {bs : List Byte} (wf : Memory.wf s.mem = true)
    (mem : t.mem = memAfterRun s bs) {j : Nat} (inRun : j < bs.length) :
    readByte t (s.index.toNat + j) = bs[j] := by
  rw [memAfterRun] at mem
  rw [readByte_congr mem, readByte_writeRun wf, if_pos (by omega), Nat.add_sub_cancel_left,
    List.getD_eq_getElem _ _ inRun]

/-- After V0..V[x] are written from I, the j-th byte from I is V[j]. -/
theorem readByte_of_mem_eq_store {x : RegIdx} {s t : State} (wf : Memory.wf s.mem = true)
    (mem : t.mem = memAfterRun s (regBytes s (runTo x))) {j : Nat} (inRun : j ≤ x.toNat) :
    readByte t (s.index.toNat + j) = getV s (BitVec.ofNat 4 j) := by
  have length : (regBytes s (runTo x)).length = x.toNat + 1 := by rw [regBytes, List.length_map, length_runTo]
  rw [readByte_of_mem_eq_memAfterRun wf mem (by omega)]
  simp [regBytes, getElem_runTo]

/-- Settles O36: STORE leaves PC at the k-th byte of its run, so the fetch stays inside the run, which lies in memory,
and its two bytes are V[k] and V[k + 1]. -/
theorem storeIsSeenByTheNextFetch : Obligations.StoreIsSeenByTheNextFetch := by
  intro x s t k wf room range covered below stored
  have result := Host.Outcome.next.inj ((exec_store_of_range room range).symm.trans stored)
  have mem : t.mem = memAfterRun s (regBytes s (runTo x)) := by rw [← result]
  have size : memSize t = memSize s := by rw [← result]; rfl
  have pc : t.pc.toNat = s.index.toNat + k := by
    rw [← result, BitVec.toNat_add, covered]
    exact Nat.mod_eq_of_lt room
  have inMemory : s.index.toNat + k + 2 ≤ memSize t := by
    have : s.index.toNat + (x.toNat + 1) ≤ memSize s := range
    omega
  rw [pc, fetchWord_of_le inMemory, readWord, readByte_of_mem_eq_store wf mem below.le, Nat.add_assoc,
    readByte_of_mem_eq_store wf mem below, wordOfBytes]

end Sys2Proof.Machine
end

section
/-! PROOF. Encode after decode: a word that decodes is the first word of its instruction (30_encoding R53 to R58). -/

namespace Sys2Proof

/-! ### The instruction of a row carries the row's fixed bits and its operands (R53, R56) -/

/-- Every row's instruction has the four nibbles that selected the row. The case `h_k` is the one of the first
nibble k - 1. -/
theorem firstWord_of_decodeFields {o x y n : Nibble} {nnnn : Word} {i : Instr}
    (row : decodeFields o x y n nnnn = some i) : firstWord i = pack o x y n := by
  unfold decodeFields at row
  split at row
  -- The rows that other nibbles select further: each fixes them to what its word has.
  case h_1 | h_6 | h_9 | h_10 | h_14 | h_15 =>
    split at row <;> cases row <;> rfl
  -- F000 and F002 fix x as well.
  case h_16 =>
    split at row
    case h_1 | h_3 =>
      split at row <;> cases row
      next zero => subst zero; rfl
    all_goals cases row <;> rfl
  case h_17 => cases row
  -- An address or an immediate splits into the nibbles it was joined from.
  all_goals
    cases row
    simp [firstWord]

/-- A word is the first word of the instruction it selects, bit for bit (R56). -/
theorem firstWord_of_decodeRow {w nnnn : Word} {i : Instr} (row : decodeRow w nnnn = some i) : firstWord i = w :=
  (firstWord_of_decodeFields row).trans (pack_fields w)

/-- The one ill-formed term is DRW with count 0, and its word DXY0 selects DRW16 instead (R55). -/
theorem wf_of_decodeRow {w nnnn : Word} {i : Instr} (row : decodeRow w nnnn = some i) : i.wf = true := by
  cases i with
  | drw x y n =>
    have nonzero : n ≠ 0#4 := by
      rintro rfl
      rw [← firstWord_of_decodeRow row, firstWord, decodeRow_pack] at row
      cases row
    simpa [Instr.wf] using nonzero
  | _ => rfl

/-- An instruction has a second word only if its first is F000. -/
theorem laterWords_of_firstWord_ne {i : Instr} (short : firstWord i ≠ 0xF000#16) : laterWords i = [] := by
  cases i with
  | ldILong _ => exact absurd rfl short
  | _ => rfl

/-- The second word is the operand given, where the Variant takes F000 for a long instruction, and else there is
none (R58): F000 decodes to F000 NNNN alone, which only XOCHIP has. -/
theorem laterWords_of_decode {v : Variant} {w nnnn : Word} {i : Instr} (decoded : decode v w nnnn = some i) :
    laterWords i = if isLong v w then [nnnn] else [] := by
  obtain ⟨row, legal⟩ := decode_eq_some.mp decoded
  by_cases long : w = 0xF000#16
  · subst long
    obtain rfl : .ldILong nnnn = i := Option.some.inj ((decodeRow_long nnnn).symm.trans row)
    have xochip : onlyXochip v = true := legal
    simp [laterWords, isLong, xochip]
  · rw [laterWords_of_firstWord_ne (by rwa [firstWord_of_decodeRow row])]
    simp [isLong, long]

/-- Settles O3: the row's instruction has the word's four nibbles, which leave out DXY0 for DRW and every word but F000
for a second word; legality is the decoder's own check. -/
theorem decodedWordIsTheInstructionsWord : Obligations.DecodedWordIsTheInstructionsWord := by
  intro v w nnnn i decoded
  obtain ⟨row, legal⟩ := decode_eq_some.mp decoded
  exact ⟨firstWord_of_decodeRow row, wf_of_decodeRow row, legal, laterWords_of_decode decoded⟩

/-- Settles O1: the decoder is computed on each of the words. -/
theorem specWordsDecode : Obligations.SpecWordsDecode := by
  unfold Obligations.SpecWordsDecode
  decide

end Sys2Proof
end

section
/-! PROOF. What an instruction does in a Variant that does not have it (30_encoding R54, 60_exceptions R145). -/

namespace Sys2Proof.Machine

/-- Settles O4: every meaning checks the legality table before anything else (log 9). -/
theorem instructionOutsideVariantIsIllegal : Obligations.InstructionOutsideVariantIsIllegal := by
  intro i s illegal
  rw [Raises, exec_eq, requireLegal_of_illegal illegal]
  rfl

end Sys2Proof.Machine
end

section
/-! PROOF. The quirks multiplexer: PROFILE reaches an instruction through the bits R21 names for it, and no others
(10_state R21, 40_execute_cycle R71). -/

namespace Sys2Proof.Machine

/-- The outcome with PROFILE replaced in its next state. -/
def replaceProfile (profile : Byte) : Host.Outcome State Fault Refusal → Host.Outcome State Fault Refusal
  | .next t => .next { t with profile }
  | .fault r => .fault r
  | .refused r => .refused r

section
variable {s : State} {profile : Byte}

/-! ### What reads no bit of PROFILE -/

theorem writeRun_replaceProfile (a : Nat) (bs : List Byte) :
    writeRun { s with profile } a bs = { writeRun s a bs with profile } := by
  induction bs generalizing s a with
  | nil => rfl
  | cons b bs ih => exact ih (s := writeByte s a b) (a + 1)

theorem memAfterRun_replaceProfile (bs : List Byte) : memAfterRun { s with profile } bs = memAfterRun s bs := by
  rw [memAfterRun, memAfterRun, writeRun_replaceProfile]

theorem loadRegs_replaceProfile (a : Nat) (xs : List RegIdx) :
    loadRegs { s with profile } a xs = { loadRegs s a xs with profile } := by
  induction xs generalizing s a with
  | nil => rfl
  | cons x xs ih => exact ih (s := setV s x (readByte s a)) (a + 1)

theorem saveRpl_replaceProfile (zs : List RegIdx) :
    saveRpl { s with profile } zs = { saveRpl s zs with profile } := by
  induction zs generalizing s with
  | nil => rfl
  | cons z zs ih => exact ih (s := setRpl s z (getV s z))

theorem loadRpl_replaceProfile (zs : List RegIdx) :
    loadRpl { s with profile } zs = { loadRpl s zs with profile } := by
  induction zs generalizing s with
  | nil => rfl
  | cons z zs ih => exact ih (s := setV s z (getRpl s z))

theorem patternAtIndex_replaceProfile : patternAtIndex { s with profile } = patternAtIndex s := by
  rw [patternAtIndex, patternAtIndex]
  rfl

/-! ### What reads one bit of PROFILE -/

theorem shiftSource_replaceProfile (bit : profile.getLsbD 0 = s.profile.getLsbD 0) (x y : RegIdx) :
    shiftSource { s with profile } x y = shiftSource s x y := by
  simp only [shiftSource, shiftQuirk, bit]
  rfl

theorem indexAfterRun_replaceProfile (bit : profile.getLsbD 1 = s.profile.getLsbD 1) (x : RegIdx) :
    indexAfterRun { s with profile } x = indexAfterRun s x := by
  simp only [indexAfterRun, loadStoreQuirk, bit]

theorem jumpOffset_replaceProfile (bit : profile.getLsbD 2 = s.profile.getLsbD 2) (nnn : Addr12) :
    jumpOffset { s with profile } nnn = jumpOffset s nnn := by
  simp only [jumpOffset, jumpQuirk, bit]
  rfl

theorem setLogicResult_replaceProfile (bit : profile.getLsbD 3 = s.profile.getLsbD 3) (x : RegIdx) (b : Byte) :
    (setLogicResult { s with profile } x b).v = (setLogicResult s x b).v := by
  have quirk : logicQuirk { s with profile } = logicQuirk s := by simp only [logicQuirk, bit]
  rw [setLogicResult, setLogicResult, quirk]
  cases logicQuirk s <;> rfl

/-! ### A draw, which reads three bits of PROFILE -/

theorem placeDot_replaceProfile (clip : profile.getLsbD 4 = s.profile.getLsbD 4) (x0 y0 r c : Nat) :
    placeDot { s with profile } x0 y0 r c = placeDot s x0 y0 r c := by
  simp only [placeDot, clipQuirk, clip]
  rfl

theorem drawPlane_replaceProfile (clip : profile.getLsbD 4 = s.profile.getLsbD 4) (z : SpriteSize) (cx cy : Byte)
    (k : Fin 4) : drawPlane { s with profile } z cx cy k = drawPlane s z cx cy k := by
  simp only [drawPlane, spriteDots, placeDot_replaceProfile clip]
  rfl

theorem drawSprite_replaceProfile (clip : profile.getLsbD 4 = s.profile.getLsbD 4)
    (vblank : profile.getLsbD 5 = s.profile.getLsbD 5) (collision : profile.getLsbD 7 = s.profile.getLsbD 7)
    (z : SpriteSize) (cx cy : Byte) :
    drawSprite { s with profile } z cx cy = { drawSprite s z cx cy with profile } := by
  simp only [drawSprite, drawnPlanes, collidedRows, drawPlane_replaceProfile clip, vblankQuirk, vblank, collisionFlag,
    collisionQuirk, collision]
  rfl

/-! ### An instruction -/

/-- What an instruction writes depends on PROFILE through the bits it reads alone. -/
theorem writes_replaceProfile {i : Instr}
    (agree : ∀ j, readsProfileBit j i = true → profile.getLsbD j = s.profile.getLsbD j) :
    writes i { s with profile } = { writes i s with profile } := by
  cases i with
  | shr | shl => rw [writes, writes, shiftSource_replaceProfile (agree 0 rfl)]; rfl
  | store => rw [writes, writes, memAfterRun_replaceProfile, indexAfterRun_replaceProfile (agree 1 rfl)]; rfl
  | load => rw [writes, writes, loadRegs_replaceProfile, indexAfterRun_replaceProfile (agree 1 rfl)]
  | or | and | xor => rw [writes, writes, setLogicResult_replaceProfile (agree 3 rfl)]; rfl
  | drw | drw16 => exact drawSprite_replaceProfile (agree 4 rfl) (agree 5 rfl) (agree 7 rfl) ..
  | bcd | saveRange => rw [writes, writes, memAfterRun_replaceProfile]; rfl
  | loadRange => rw [writes, writes, loadRegs_replaceProfile]
  | saveFlags => rw [writes, writes, saveRpl_replaceProfile]
  | loadFlags => rw [writes, writes, loadRpl_replaceProfile]
  | audio => rw [writes, writes, patternAtIndex_replaceProfile]
  | _ => rfl

/-- BNNN alone ends at a PC that depends on PROFILE. -/
theorem finalPc_replaceProfile {i : Instr}
    (agree : ∀ j, readsProfileBit j i = true → profile.getLsbD j = s.profile.getLsbD j) :
    finalPc i { s with profile } = finalPc i s := by
  cases i with
  | jpOff nnn => rw [finalPc, finalPc, jumpOffset_replaceProfile (agree 2 rfl)]
  | _ => rfl

theorem requireLegal_replaceProfile (i : Instr) (k : Host.Outcome State Fault Refusal) :
    requireLegal i { s with profile } (replaceProfile profile k) = replaceProfile profile (requireLegal i s k) := by
  obtain ⟨legal, e⟩ | ⟨illegal, e⟩ := requireLegal_cases i s k <;> rw [e]
  · exact requireLegal_of_legal legal
  · exact requireLegal_of_illegal illegal

theorem requireRange_replaceProfile (i : Instr) (a n : Nat) (k : Host.Outcome State Fault Refusal) :
    requireRange i { s with profile } a n (replaceProfile profile k) =
      replaceProfile profile (requireRange i s a n k) := by
  obtain ⟨inRange, e⟩ | ⟨bad, outside, e⟩ := requireRange_cases i s a n k <;> rw [e]
  · exact requireRange_of_none inRange
  · exact requireRange_of_some outside

theorem commit_replaceProfile (i : Instr) (s' : State) (pc : Nat) :
    commit i { s with profile } { s' with profile } pc = replaceProfile profile (commit i s s' pc) := by
  obtain ⟨below, e⟩ | ⟨past, e⟩ := commit_cases i s s' pc <;> rw [e]
  · exact commit_of_lt below
  · exact commit_of_le past

/-- Replacing PROFILE by one with the same bits where the instruction reads it replaces it in the outcome and changes
nothing else: the guards read no bit of it. -/
theorem exec_replaceProfile {i : Instr}
    (agree : ∀ j, readsProfileBit j i = true → profile.getLsbD j = s.profile.getLsbD j) :
    exec i { s with profile } = replaceProfile profile (exec i s) := by
  have body : (if stackBlocked i s then stackFault i { s with profile }
        else commit i { s with profile } { writes i s with profile } (finalPc i s)) =
      replaceProfile profile (if stackBlocked i s then stackFault i s else commit i s (writes i s) (finalPc i s)) := by
    rw [apply_ite (replaceProfile profile), commit_replaceProfile]
    rfl
  rw [exec_eq, exec_eq, ← requireLegal_replaceProfile, ← requireRange_replaceProfile, ← body,
    writes_replaceProfile agree, finalPc_replaceProfile agree]
  rfl

end

/-- Settles O60: an instruction that does not read bit b reads other bits alone, where the two PROFILEs agree. -/
theorem quirkBitReachesOnlyItsInstructions : Obligations.QuirkBitReachesOnlyItsInstructions := by
  intro b i s t profile unread agree executed
  have agreeWhereRead : ∀ j, readsProfileBit j i = true → profile.getLsbD j = s.profile.getLsbD j := by
    refine fun j read => agree j ?_
    rintro rfl
    exact Bool.false_ne_true (unread.symm.trans read)
  rw [exec_replaceProfile agreeWhereRead, executed, replaceProfile]

end Sys2Proof.Machine
end

section
/-! PROOF. How an instruction ends: it completes, or raises one fault with no other effect (40_execute_cycle R68, R72;
60_exceptions R148, R149). -/

namespace Sys2Proof.Machine

/-- Every instruction raises a fault, or commits its writes and its final pc. -/
theorem exec_raises_or_commits (i : Instr) (s : State) :
    (∃ kind addr, Raises i s kind addr) ∨
      exec i s = .next { writes i s with pc := BitVec.ofNat 16 (finalPc i s) } := by
  simp only [Raises, exec_eq i s]
  obtain ⟨-, e⟩ | ⟨-, e⟩ := requireLegal_cases i s _ <;> rw [e]
  · obtain ⟨-, e⟩ | ⟨bad, -, e⟩ := requireRange_cases i s _ _ _ <;> rw [e]
    · split
      · exact .inl ⟨_, _, rfl⟩
      · exact (commit_cases i s (writes i s) (finalPc i s)).symm.imp (fun h => ⟨_, _, h.2⟩) And.right
    · exact .inl ⟨_, _, rfl⟩
  · exact .inl ⟨_, _, rfl⟩

/-- Settles O12: a fault is a record with PC and the word, and no instruction's writes touch FAULT. -/
theorem everyInstructionCompletesOrFaults : Obligations.EveryInstructionCompletesOrFaults := by
  intro i s
  obtain ⟨kind, addr, raised⟩ | committed := exec_raises_or_commits i s
  · exact ⟨_, raised, .inr ⟨_, rfl, rfl, rfl⟩⟩
  · exact ⟨_, committed, .inl (writes_fault i s)⟩

/-! ### The PC range check (R68) -/

/-- An instruction that passes its guards and would end past 0xFFFF raises AddressFault with that pc. -/
theorem raises_of_finalPc {i : Instr} {s : State} (legal : i.legalIn s.variant = true)
    (inRange : reach i s = 0 ∨ IndexRange (reach i s) s) (ready : stackBlocked i s = false)
    (past : 0x10000 ≤ finalPc i s) : Raises i s .addressFault (some (finalPc i s)) := by
  rw [Raises, exec_eq, requireLegal_of_legal legal, requireRange_of_none (checkRange_eq_none.mpr inRange), ready,
    if_neg Bool.false_ne_true, commit_of_le past, raise]

/-- The instructions that go on at a + 2 when they complete: two bytes long, and no jump, call, return or skip. -/
def goesOn : Instr → Bool
  | .jp _ | .call _ | .ret | .jpOff _ | .ldILong _ => false
  | .seImm _ _ | .sneImm _ _ | .seReg _ _ | .sneReg _ _ | .skp _ | .sknp _ => false
  | _ => true

theorem finalPc_of_goesOn {i : Instr} {s : State} (h : goesOn i = true) : finalPc i s = s.pc.toNat + 2 := by
  cases i with
  | jp | call | ret | jpOff | ldILong | seImm | sneImm | seReg | sneReg | skp | sknp => cases h
  | _ => rfl

theorem stackBlocked_of_goesOn {i : Instr} {s : State} (h : goesOn i = true) : stackBlocked i s = false := by
  cases i with
  | call | ret => cases h
  | _ => rfl

/-- At the top of the address space, an instruction that goes on at a + 2 faults once its other guards pass. -/
theorem raises_of_goesOn {i : Instr} {s : State} (top : 0x10000 ≤ s.pc.toNat + 2) (goes : goesOn i = true)
    (legal : i.legalIn s.variant = true) (inRange : reach i s = 0 ∨ IndexRange (reach i s) s) :
    Raises i s .addressFault (some (s.pc.toNat + 2)) := by
  have pc := finalPc_of_goesOn (s := s) goes
  exact pc ▸ raises_of_finalPc legal inRange (stackBlocked_of_goesOn goes) (pc ▸ top)

/-- The number of selected planes, counted and listed. -/
theorem planeRank_four (s : State) : planeRank s 4 = selectedPlanes s := by
  rw [planeRank, selectedPlanes, List.countP_eq_length_filter]

/-- Settles O13: every instruction listed goes on at a + 2. The first list is legal everywhere, the first two access no
memory, and the sizes beside the third are the bytes its instructions reach. -/
theorem pcPastTheTopFaults : Obligations.PcPastTheTopFaults := by
  intro s x y n nn nnn nnnn d distance
  obtain rfl : d = rangeDistance x y := distance
  refine ⟨fun top => ⟨fun i mem => ?_, fun i mem legal => ?_, fun p mem legal inRange => ?_⟩, fun xochip past => ?_⟩
  · have goes : goesOn i = true := (List.all_eq_true (p := goesOn)).mp rfl i mem
    have legal : i.legalIn s.variant = true := (List.all_eq_true (p := Instr.legalIn s.variant)).mp rfl i mem
    have noBytes : reach i s = 0 := (List.map_inj_left (f := (reach · s)) (g := fun _ => 0)).mp rfl i mem
    exact raises_of_goesOn top goes legal (.inl noBytes)
  · have goes : goesOn i = true := (List.all_eq_true (p := goesOn)).mp rfl i mem
    have noBytes : reach i s = 0 := (List.map_inj_left (f := (reach · s)) (g := fun _ => 0)).mp rfl i mem
    exact raises_of_goesOn top goes legal (.inl noBytes)
  · have goes : goesOn p.1 = true := (List.all_eq_true (p := fun p => goesOn p.1)).mp rfl p mem
    rw [planeRank_four] at mem
    have size : p.2 = reach p.1 s := (List.map_inj_left (f := Prod.snd) (g := fun p => reach p.1 s)).mp rfl p mem
    exact raises_of_goesOn top goes legal (size ▸ inRange)
  · exact raises_of_finalPc (xochip ▸ legalIn_xochip _) (.inl rfl) rfl past

end Sys2Proof.Machine
end

section
/-! PROOF. The cycle before execution: entry checks, fetch, decode and extension fetch (40_execute_cycle R62 to R67,
R70). -/

namespace Sys2Proof.Machine

/-! ### What the fetch gives (R64, R65, R67) -/

section
variable {s : State}

theorem fetch_of_outside (outside : memSize s < s.pc.toNat + 2) :
    fetch s = .raised (raise s .addressFault none (some (max s.pc.toNat (memSize s)))) := by
  rw [fetch, fetchWord_of_lt outside]

theorem fetch_of_short {i : Instr} (inMemory : s.pc.toNat + 2 ≤ memSize s)
    (decoded : decode s.variant (readWord s s.pc.toNat) 0#16 = some i)
    (short : isLong s.variant (readWord s s.pc.toNat) = false) : fetch s = .instr i := by
  simp [fetch, fetchWord_of_le inMemory, decoded, short]

/-- The one 4-byte word is F000 in XOCHIP (R58). -/
theorem isLong_iff {v : Variant} {w : Word} : isLong v w = true ↔ v = .xochip ∧ w = 0xF000#16 := by
  simp [isLong, onlyXochip_iff]

/-- A 4-byte word decodes, so its second word is fetched. -/
theorem fetch_of_long (inMemory : s.pc.toNat + 2 ≤ memSize s)
    (long : isLong s.variant (readWord s s.pc.toNat) = true) :
    fetch s = fetchExtension s (readWord s s.pc.toNat) := by
  have decoded : decode s.variant (readWord s s.pc.toNat) 0#16 = some (.ldILong 0#16) := by
    obtain ⟨xochip, word⟩ := isLong_iff.mp long
    rw [xochip, word]
    rfl
  simp [fetch, fetchWord_of_le inMemory, decoded, long]

theorem fetchExtension_of_le {w : Word} (inMemory : s.pc.toNat + 4 ≤ memSize s) :
    fetchExtension s w = .instr (.ldILong (readWord s (s.pc.toNat + 2))) := by
  rw [fetchExtension, fetchWord_of_le (a := s.pc.toNat + 2) inMemory]

theorem fetchExtension_of_lt {w : Word} (outside : memSize s < s.pc.toNat + 4) :
    fetchExtension s w = .raised (raise s .addressFault (some w) (some (max (s.pc.toNat + 2) (memSize s)))) := by
  rw [fetchExtension, fetchWord_of_lt (a := s.pc.toNat + 2) outside]

/-! ### A step from what was fetched (R62, R63, R70) -/

theorem step_of_fetch_instr {i : Instr} (running : stopped s = false)
    (fetched : fetch { s with started := true } = .instr i) : step s = exec i { s with started := true } := by
  rw [step_of_running running, cycle, fetched]

theorem step_of_fetch_raised {t : State} (running : stopped s = false)
    (fetched : fetch { s with started := true } = .raised t) : step s = .next t := by
  rw [step_of_running running, cycle, fetched]

/-- A step whose first word does not lie in memory faults at the lowest address outside, with no word. -/
theorem step_of_outside (running : stopped s = false) (outside : memSize s < s.pc.toNat + 2) :
    step s = .next (raise { s with started := true } .addressFault none (some (max s.pc.toNat (memSize s)))) :=
  step_of_fetch_raised running (fetch_of_outside (s := { s with started := true }) outside)

end

/-- Settles O5: a short word is fetched as it decodes, a long one with the word after it, and the step runs it. -/
theorem stepRunsTheDecodedInstruction : Obligations.StepRunsTheDecodedInstruction := by
  intro s i running inMemory decoded
  refine ⟨fun short => step_of_fetch_instr running ?_, fun long extension => step_of_fetch_instr running ?_⟩
  · exact fetch_of_short (s := { s with started := true }) inMemory decoded short
  · exact (fetch_of_long (s := { s with started := true }) inMemory long).trans (fetchExtension_of_le extension)

/-- Settles O6: FAULT, HALTED and the waits are each a stop state, and `stepResult` asks for them in that order. -/
theorem entryChecks : Obligations.EntryChecks := by
  intro s
  refine ⟨fun r fault => ?_, fun fault halted => ?_, fun r fault halted waits => ?_, fun fault halted waits => ?_,
    fun fault halted waits => step_of_running (stopped_eq_false.mpr ⟨fault, halted, waits⟩)⟩
  · exact ⟨step_of_stopped (by simp [stopped, fault]), by simp [stepResult, fault]⟩
  · exact ⟨step_of_stopped (by simp [stopped, halted]), by simp [stepResult, fault, halted]⟩
  · exact ⟨step_of_stopped (by simp [stopped, waits]), by simp [stepResult, fault, halted, waits]⟩
  · exact ⟨step_of_stopped (by simp [stopped, waits]), by simp [stepResult, fault, halted, waits]⟩

/-- Settles O7: both bytes in memory are read; otherwise the lowest address outside is PC, or MEM_SIZE when PC is the
last byte. -/
theorem fetchReadsTheWordAtPc : Obligations.FetchReadsTheWordAtPc := by
  intro s
  refine ⟨fetchWord_of_le, fun running outside => ?_, fun running last => ?_⟩
  · rw [step_of_outside running (by omega), Nat.max_eq_left outside]
    rfl
  · rw [step_of_outside running (by omega), Nat.max_eq_right (by omega)]
    rfl

/-- Settles O8: F000 is a 4-byte word in XOCHIP, and its extension fetch faults. -/
theorem extensionFetchOutsideMemoryFaults : Obligations.ExtensionFetchOutsideMemoryFaults := by
  intro s running xochip inMemory outside word
  have long : isLong s.variant (readWord s s.pc.toNat) = true := isLong_iff.mpr ⟨xochip, word⟩
  have fetched := (fetch_of_long (s := { s with started := true }) inMemory long).trans (fetchExtension_of_lt outside)
  rw [step_of_fetch_raised running fetched, ← word]
  rfl

end Sys2Proof.Machine
end

section
/-! PROOF. Control transfer (41_control R73 to R84): what each jump, call, return, skip and exit answers. -/

namespace Sys2Proof.Machine

/-- The pc after the pre-increment, as PC holds it: past 0xFFFF it wraps (R66, log 12). -/
theorem ofNat_nextPc (s : State) : BitVec.ofNat 16 (nextPc s) = s.pc + 2#16 := BitVec.eq_of_toNat_eq (by simp [nextPc])

/-! ### JP and JP_OFF (R76, R79) -/

theorem exec_jp (nnn : Addr12) (s : State) : exec (.jp nnn) s = .next { s with pc := nnn.setWidth 16 } := by
  have below : nnn.toNat < 0x10000 := by omega
  rw [← BitVec.ofNat_toNat]
  exact commit_of_lt below

/-- The largest target of JP_OFF is 0xFFF + 0xFF. -/
theorem jumpSum_le (nnn : Addr12) (off : Byte) : nnn.toNat + off.toNat ≤ 0x10FE := by omega

theorem exec_jpOff (nnn : Addr12) (s : State) :
    exec (.jpOff nnn) s = .next { s with pc := BitVec.ofNat 16 (nnn.toNat + (jumpOffset s nnn).toNat) } :=
  commit_of_lt ((jumpSum_le nnn (jumpOffset s nnn)).trans_lt (by decide))

theorem jumpOffset_of_v0 {s : State} (v0 : s.profile.getLsbD 2 = false) (nnn : Addr12) :
    jumpOffset s nnn = getV s 0#4 := by
  simp only [jumpOffset, jumpQuirk, v0, Bool.false_eq_true, if_false]

theorem jumpOffset_of_vx {s : State} (vx : s.profile.getLsbD 2 = true) (nnn : Addr12) :
    jumpOffset s nnn = getV s (nnn.extractLsb' 8 4) := by
  simp only [jumpOffset, jumpQuirk, vx, if_true]

/-- What a fetch reads does not depend on PC. -/
theorem fetchWord_setPc (s : State) (pc : Word) (a : Nat) : fetchWord { s with pc } a = fetchWord s a := rfl

/-- Settles O14: nnn is at most 0xFFF and MEM_SIZE at least 4096, so the word at nnn leaves memory only when both are
reached. -/
theorem jumpGoesToItsTarget : Obligations.JumpGoesToItsTarget := by
  intro nnn s
  refine ⟨exec_jp nnn s, fun valid => ?_⟩
  have size : 4096 ≤ memSize s := le_memSizeOf valid
  have target : nnn.toNat < 4096 := nnn.isLt
  have address : (nnn.setWidth 16 : Word).toNat = nnn.toNat := BitVec.toNat_setWidth_of_le (by decide)
  refine ⟨by omega, ?_⟩
  rw [address, fetchWord_setPc]
  split
  · next last =>
    obtain ⟨least, rfl⟩ := last
    have outside : memSize s < (0xFFF#12).toNat + 2 := by rw [least]; decide
    rw [fetchWord_of_lt outside, least]
    rfl
  · next notLast =>
    have inMemory : nnn.toNat + 2 ≤ memSize s := by
      by_contra outside
      exact notLast ⟨by omega, BitVec.eq_of_toNat_eq (show nnn.toNat = 0xFFF by omega)⟩
    exact fetchWord_of_le inMemory

/-- Settles O17: the quirk selects the offset, and the sum fits 16 bits for every offset. -/
theorem jumpWithOffset : Obligations.JumpWithOffset := by
  intro nnn s
  refine ⟨fun v0 => ?_, fun vx => ?_, jumpSum_le nnn _, jumpSum_le nnn _⟩
  · rw [exec_jpOff, jumpOffset_of_v0 v0]
  · rw [exec_jpOff, jumpOffset_of_vx vx]

/-! ### CALL and RET (R73, R74, R77, R78) -/

theorem exec_call_of_room {s : State} (room : sp s ≠ s.params.stackDepth) (nnn : Addr12) :
    exec (.call nnn) s = .next { s with stack := (s.pc + 2#16) :: s.stack, pc := nnn.setWidth 16 } := by
  have below : nnn.toNat < 0x10000 := by omega
  rw [exec, execCall, if_neg room, commit_of_lt below, ofNat_nextPc, BitVec.ofNat_toNat]

theorem call_raises_of_full {s : State} (full : sp s = s.params.stackDepth) (nnn : Addr12) :
    Raises (.call nnn) s .stackFault none := by
  rw [Raises, exec, execCall, if_pos full, stackFault, raise]

theorem exec_ret_of_cons {s : State} {top : Word} {below : List Word} (stack : s.stack = top :: below) :
    exec .ret s = .next { s with stack := below, pc := top } := by
  simp only [exec, execRet, stack, commit_of_lt top.isLt, BitVec.ofNat_toNat, BitVec.setWidth_eq]

theorem ret_raises_of_empty {s : State} (empty : s.stack = []) : Raises .ret s .stackFault none := by
  simp only [Raises, exec, execRet, empty, stackFault, raise]

/-- Settles O15: the push, or StackFault when the stack is full. -/
theorem callPushesTheReturnAddress : Obligations.CallPushesTheReturnAddress :=
  fun nnn _ => ⟨fun room => exec_call_of_room room nnn, fun full => call_raises_of_full full nnn⟩

/-- Settles O16: RET pops what the stack holds on top, and after a CALL that is the address CALL pushed. -/
theorem returnPopsTheReturnAddress : Obligations.ReturnPopsTheReturnAddress := by
  intro s top below nnn
  refine ⟨exec_ret_of_cons, fun zero => ret_raises_of_empty (List.length_eq_zero_iff.mp zero), fun room => ?_⟩
  have called := exec_call_of_room (Nat.ne_of_lt room) nnn
  exact ⟨_, called, rfl, exec_ret_of_cons rfl⟩

/-! ### The skips (R75, R80 to R83, R138, R139) -/

/-- The pc of a taken skip, counted from the skip's own address. -/
theorem skipPc_eq (s : State) :
    skipPc s = s.pc.toNat + 2 + (if s.variant = .xochip ∧ s.pc.toNat + 3 < memSize s ∧
      readWord s (s.pc.toNat + 2) = 0xF000#16 then 4 else 2) :=
  (apply_ite (s.pc.toNat + 2 + ·) _ 4 2).symm

section
variable {i : Instr} {s : State} {cond : Bool}

theorem exec_of_skip_taken (meaning : exec i s = skipIf i s cond) (taken : cond = true) (below : skipPc s < 0x10000) :
    exec i s = .next { s with pc := BitVec.ofNat 16 (skipPc s) } := by
  rw [meaning, skipIf, if_pos taken, commit_of_lt below]

theorem raises_of_skip_taken (meaning : exec i s = skipIf i s cond) (taken : cond = true)
    (past : 0x10000 ≤ skipPc s) : Raises i s .addressFault (some (skipPc s)) := by
  rw [Raises, meaning, skipIf, if_pos taken, commit_of_le past, raise]

/-- A skip that is not taken is an instruction that goes on at a + 2. -/
theorem exec_of_skip_not_taken (meaning : exec i s = skipIf i s cond) (notTaken : cond = false) (room : Room 2 s) :
    exec i s = .next { s with pc := s.pc + 2#16 } := by
  subst notTaken
  exact meaning.trans (advance_of_lt room)

theorem raises_of_skip_not_taken (meaning : exec i s = skipIf i s cond) (notTaken : cond = false)
    (past : 0x10000 ≤ s.pc.toNat + 2) : Raises i s .addressFault (some (s.pc.toNat + 2)) := by
  subst notTaken
  exact meaning.trans (commit_of_le past)

end

/-- Settles O18: each of the four is `skipIf` of its condition. -/
theorem registerSkips : Obligations.RegisterSkips := by
  intro x y nn s target targetEq p mem
  obtain rfl : target = skipPc s := targetEq.trans (skipPc_eq s).symm
  have meaning : exec p.1 s = skipIf p.1 s p.2 := by
    simp only [List.mem_cons, List.not_mem_nil, or_false] at mem
    obtain rfl | rfl | rfl | rfl := mem <;> rfl
  exact ⟨exec_of_skip_taken meaning, raises_of_skip_taken meaning, exec_of_skip_not_taken meaning,
    raises_of_skip_not_taken meaning⟩

/-! ### EXIT (R84) -/

theorem exec_exit_of_room {s : State} (extended : s.variant ≠ .chip8) (room : Room 2 s) :
    exec .exit s = .next { s with halted := true, pc := s.pc + 2#16 } := by
  have legal : Instr.exit.legalIn s.variant = true := fromSchip_iff.mpr extended
  rw [exec, execExit, requireLegal_of_legal legal, advance_of_lt room]

/-- Settles O20: EXIT is legal but in CHIP8, and HALTED is one of the stop states. -/
theorem exitHalts : Obligations.ExitHalts := by
  intro s
  obtain ⟨-, haltedStays, -⟩ := entryChecks s
  exact ⟨exec_exit_of_room, fun chip8 => instructionOutsideVariantIsIllegal .exit s (chip8 ▸ rfl), haltedStays⟩

end Sys2Proof.Machine
end

section
/-! PROOF. The ALU (42_alu R87 to R98): one law for each way an operation writes V (the result alone, the logic result,
the result and then the flag), and the numbers that the results and the flags stand for. -/

namespace Sys2Proof.Machine

/-! ### What the flags and the results are as numbers (R85) -/

theorem toNat_flagByte (p : Prop) [Decidable p] : (flagByte (decide p)).toNat = if p then 1 else 0 := by
  by_cases h : p
  · rw [decide_eq_true h, if_pos h]; rfl
  · rw [decide_eq_false h, if_neg h]; rfl

theorem toNat_carryFlag (a b : Byte) : (carryFlag a b).toNat = if a.toNat + b.toNat > 255 then 1 else 0 :=
  toNat_flagByte _

theorem toNat_noBorrowFlag (a b : Byte) : ((noBorrowFlag a b).toNat : Int) = if a.toNat ≥ b.toNat then 1 else 0 := by
  rw [noBorrowFlag, toNat_flagByte]
  exact Nat.cast_ite ..

theorem toNat_rightShiftFlag (b : Byte) : (rightShiftFlag b).toNat = b.toNat % 2 := by
  have bit : b.getLsbD 0 = decide (b.toNat % 2 = 1) := Nat.testBit_zero _
  rw [rightShiftFlag, bit, toNat_flagByte]
  split <;> omega

theorem toNat_leftShiftFlag (b : Byte) : (leftShiftFlag b).toNat = b.toNat / 128 := by
  have bit : b.getLsbD 7 = decide (128 ≤ b.toNat) := b.msb_eq_getLsbD_last.symm.trans b.msb_eq_decide
  rw [leftShiftFlag, bit, toNat_flagByte]
  split <;> omega

theorem toNat_sub_byte (a b : Byte) : ((a - b).toNat : Int) = ((a.toNat : Int) - b.toNat) % 256 := by
  rw [BitVec.toNat_sub]
  omega

theorem toNat_shiftRight_one (b : Byte) : (b >>> 1).toNat = b.toNat / 2 := by
  rw [BitVec.toNat_ushiftRight, Nat.shiftRight_eq_div_pow, pow_one]

theorem toNat_shiftLeft_one (b : Byte) : (b <<< 1).toNat = b.toNat * 2 % 256 := by
  rw [BitVec.toNat_shiftLeft, Nat.shiftLeft_eq, pow_one]

/-! ### Reading V after the shared writes (R86, R90) -/

/-- The flag is written last, so it stays when x = 0xF (R86). -/
theorem getV_setResultFlag (s : State) (x z : RegIdx) (result flag : Byte) :
    getV (setResultFlag s x result flag) z = if z = 0xF#4 then flag else if z = x then result else getV s z := by
  rw [setResultFlag, getV_setVF, getV_setV]

theorem getV_setLogicResult (s : State) (x z : RegIdx) (result : Byte) :
    getV (setLogicResult s x result) z =
      if z = 0xF#4 ∧ s.profile.getLsbD 3 = true then 0#8 else if z = x then result else getV s z := by
  cases quirk : s.profile.getLsbD 3
  · simp only [setLogicResult, logicQuirk, quirk, Bool.false_eq_true, if_false, and_false, getV_setV]
  · simp only [setLogicResult, logicQuirk, quirk, if_true, and_true, getV_setVF, getV_setV]

theorem shiftSource_eq (s : State) (x y : RegIdx) :
    shiftSource s x y = if s.profile.getLsbD 0 = true then getV s x else getV s y := by
  cases quirk : s.profile.getLsbD 0
  · simp only [shiftSource, shiftQuirk, quirk, Bool.false_eq_true, if_false]
  · simp only [shiftSource, shiftQuirk, quirk, if_true]

/-! ### Completion, frame and registers of an instruction that writes V alone -/

section
variable {i : Instr} {s s' : State} {x : RegIdx} {result flag : Byte} {α : Type}

/-- With room for the next PC, an instruction that writes V alone completes, with `s'`'s registers. -/
theorem completes_of_writes_v (room : Room 2 s) (meaning : exec i s = advance i s s')
    (frame : s' = { s with v := s'.v }) :
    Completes i s fun t => t = { s with v := t.v, pc := s.pc + 2#16 } ∧ ∀ z, getV t z = getV s' z :=
  ⟨_, meaning.trans (advance_of_lt room), congrArg (fun u : State => { u with pc := s.pc + 2#16 }) frame, fun _ => rfl⟩

/-- The instructions that write V[x] and no flag. `val` is what the registers are compared by. -/
theorem completes_of_setV (val : Byte → α) (room : Room 2 s) (meaning : exec i s = advance i s (setV s x result)) :
    Completes i s fun t => t = { s with v := t.v, pc := s.pc + 2#16 } ∧
      ∀ z, val (getV t z) = if z = x then val result else val (getV s z) := by
  obtain ⟨t, done, frame, registers⟩ := completes_of_writes_v room meaning rfl
  refine ⟨t, done, frame, fun z => ?_⟩
  rw [registers, getV_setV, apply_ite val]

/-- OR, AND and XOR. -/
theorem completes_of_setLogicResult (room : Room 2 s) (meaning : exec i s = advance i s (setLogicResult s x result)) :
    Completes i s fun t => t = { s with v := t.v, pc := s.pc + 2#16 } ∧
      ∀ z, getV t z =
        if z = 0xF#4 ∧ s.profile.getLsbD 3 = true then 0#8 else if z = x then result else getV s z := by
  obtain ⟨t, done, frame, registers⟩ := completes_of_writes_v room meaning (setLogicResult_eq s x result)
  exact ⟨t, done, frame, fun z => (registers z).trans (getV_setLogicResult s x z result)⟩

/-- The instructions that write V[x] and then a flag, given the result and the flag as the values `r` and `f`. -/
theorem completes_of_setResultFlag (val : Byte → α) {r f : α} (resultIs : val result = r) (flagIs : val flag = f)
    (room : Room 2 s) (meaning : exec i s = advance i s (setResultFlag s x result flag)) :
    Completes i s fun t => t = { s with v := t.v, pc := s.pc + 2#16 } ∧
      ∀ z, val (getV t z) = if z = 0xF#4 then f else if z = x then r else val (getV s z) := by
  obtain ⟨t, done, frame, registers⟩ := completes_of_writes_v room meaning rfl
  refine ⟨t, done, frame, fun z => ?_⟩
  rw [registers, getV_setResultFlag, apply_ite val, apply_ite val, resultIs, flagIs]

end

/-! ### The instructions -/

/-- Settles O22: each of the three is the logic result of its bitwise operation. -/
theorem logicOperations : Obligations.LogicOperations := by
  intro x y s room p mem
  have meaning : exec p.1 s = advance p.1 s (setLogicResult s x p.2) := by
    simp only [List.mem_cons, List.not_mem_nil, or_false] at mem
    obtain rfl | rfl | rfl := mem <;> rfl
  exact completes_of_setLogicResult room meaning

/-- Settles O23: the result is the sum modulo 256 and the flag the carry. -/
theorem addSetsCarry : Obligations.AddSetsCarry := fun _ _ _ room =>
  completes_of_setResultFlag BitVec.toNat (BitVec.toNat_add ..) (toNat_carryFlag ..) room rfl

/-- Settles O24: SUB and SUBN are one difference and one no-borrow flag, of the operands in either order. -/
theorem subtractSetsNoBorrow : Obligations.SubtractSetsNoBorrow := by
  intro x y s room p mem
  have meaning : exec p.1 s = advance p.1 s (setResultFlag s x (p.2.1 - p.2.2) (noBorrowFlag p.2.1 p.2.2)) := by
    simp only [List.mem_cons, List.not_mem_nil, or_false] at mem
    obtain rfl | rfl := mem <;> rfl
  exact completes_of_setResultFlag (fun b => (b.toNat : Int)) (toNat_sub_byte ..) (toNat_noBorrowFlag ..) room meaning

/-- Settles O25: both shift the source that the quirk selects; the flag is its low bit for SHR, its high bit for SHL. -/
theorem shiftsCaptureTheBitShiftedOut : Obligations.ShiftsCaptureTheBitShiftedOut := by
  intro x y s src room srcIs p mem
  rw [← shiftSource_eq] at srcIs
  subst srcIs
  simp only [List.mem_cons, List.not_mem_nil, or_false] at mem
  obtain rfl | rfl := mem
  · exact completes_of_setResultFlag BitVec.toNat (toNat_shiftRight_one _) (toNat_rightShiftFlag _) room rfl
  · exact completes_of_setResultFlag BitVec.toNat (toNat_shiftLeft_one _) (toNat_leftShiftFlag _) room rfl

/-- Settles O21: each of the three writes V[x] alone; the sum of ADD_IMM is modulo 256. -/
theorem loadAndAddImmediate : Obligations.LoadAndAddImmediate := by
  intro x y nn s room p mem
  simp only [List.mem_cons, List.not_mem_nil, or_false] at mem
  obtain rfl | rfl | rfl := mem
  · exact completes_of_setV BitVec.toNat room rfl
  · rw [← BitVec.toNat_add]
    exact completes_of_setV BitVec.toNat room rfl
  · exact completes_of_setV BitVec.toNat room rfl

/-- Settles O26: the byte is arbitrary, and AND with 0 is 0 for every byte. -/
theorem randomIsMasked : Obligations.RandomIsMasked := by
  intro x nn s room
  have registers : ∀ z, getV (setV s x (Config.rand8 s.draws &&& nn)) z =
      if z = x then Config.rand8 s.draws &&& nn else getV s z := fun z => getV_setV s x z _
  refine ⟨_, advance_of_lt room, rfl, registers, ?_⟩
  rintro rfl
  exact (registers x).trans (by rw [if_pos rfl, BitVec.and_zero])

end Sys2Proof.Machine
end

section
/-! PROOF. The index register, its loads and stores, and the persistent flags (43_index_memory R99 to R110): what each
instruction commits once its guards pass, what memory and V hold after a run, and the faults of the guards. -/

namespace Sys2Proof.Machine

/-! ### An instruction whose guards pass, and the range guard (R42, R68) -/

section
variable {i : Instr} {s : State}

/-- An instruction that passes its guards and ends inside the address space commits its writes. -/
theorem exec_of_finalPc (legal : i.legalIn s.variant = true) (inRange : reach i s = 0 ∨ IndexRange (reach i s) s)
    (ready : stackBlocked i s = false) (below : finalPc i s < 0x10000) :
    exec i s = .next { writes i s with pc := BitVec.ofNat 16 (finalPc i s) } := by
  rw [exec_eq, requireLegal_of_legal legal, requireRange_of_none (checkRange_eq_none.mpr inRange), ready,
    if_neg Bool.false_ne_true, commit_of_lt below]

/-- With room for the next PC, an instruction that goes on at a + 2 commits its writes once its other guards pass. -/
theorem exec_of_goesOn (room : Room 2 s) (goes : goesOn i = true) (legal : i.legalIn s.variant = true)
    (inRange : reach i s = 0 ∨ IndexRange (reach i s) s) :
    exec i s = .next { writes i s with pc := s.pc + 2#16 } := by
  have pc : finalPc i s = nextPc s := finalPc_of_goesOn goes
  rw [exec_of_finalPc legal inRange (stackBlocked_of_goesOn goes) (pc ▸ room), pc, ofNat_nextPc]

/-- A range check that fails reports the lowest address from I that lies outside memory (R9). -/
theorem checkRange_of_outside {n : Nat} (outside : ¬ IndexRange (n + 1) s) :
    checkRange s s.index.toNat (n + 1) = some (lowestOutside s) :=
  if_neg (not_or_intro n.succ_ne_zero outside)

/-- A legal instruction that would access a byte outside memory raises AddressFault (R42). -/
theorem raises_of_outside {n : Nat} (legal : i.legalIn s.variant = true) (bytes : reach i s = n + 1)
    (outside : ¬ IndexRange (n + 1) s) : Raises i s .addressFault (some (lowestOutside s)) := by
  rw [Raises, exec_eq, requireLegal_of_legal legal, bytes, requireRange_of_some (checkRange_of_outside outside),
    addressFault, raise]

/-- An instruction that only XOCHIP has raises IllegalInstruction elsewhere (R54). -/
theorem raises_of_onlyXochip (legality : i.legalIn s.variant = onlyXochip s.variant) (other : s.variant ≠ .xochip) :
    Raises i s .illegalInstruction none :=
  instructionOutsideVariantIsIllegal i s
    (legality.trans (Bool.eq_false_of_not_eq_true (mt onlyXochip_iff.mp other)))

end

/-! ### I (R99 to R103, R105, R106) -/

theorem toNat_lowNibble (b : Byte) : (lowNibble b).toNat = b.toNat % 16 := BitVec.extractLsb'_toNat ..

/-- The load/store quirk as PROFILE's bit, and the sum as a number (R105, R106). -/
theorem indexAfterRun_eq (s : State) (x : RegIdx) :
    indexAfterRun s x =
      if s.profile.getLsbD 1 = true then s.index else BitVec.ofNat 16 (s.index.toNat + x.toNat + 1) := by
  cases quirk : s.profile.getLsbD 1
  · simp only [indexAfterRun, loadStoreQuirk, quirk, Bool.false_eq_true, if_false, Nat.add_assoc, BitVec.ofNat_add,
      BitVec.ofNat_toNat, BitVec.setWidth_eq]
  · simp only [indexAfterRun, loadStoreQuirk, quirk, if_true]

/-- Settles O27: each writes I alone; the sum of ADD_I is modulo 2^16. -/
theorem indexLoadsAndAdd : Obligations.IndexLoadsAndAdd := by
  intro x nnn nnnn s
  refine ⟨fun room => ?_, fun xochip room => ?_, raises_of_onlyXochip rfl, fun room => ?_⟩
  · rw [exec_of_goesOn room rfl rfl (.inl rfl), BitVec.ofNat_toNat]
    rfl
  · have pc : BitVec.ofNat 16 (s.pc.toNat + 4) = s.pc + 4#16 := BitVec.eq_of_toNat_eq (by simp)
    rw [exec_of_finalPc (i := .ldILong nnnn) (onlyXochip_iff.mpr xochip) (.inl rfl) rfl room, finalPc, pc]
    rfl
  · rw [exec_of_goesOn room rfl rfl (.inl rfl), BitVec.ofNat_add, BitVec.ofNat_toNat, BitVec.ofNat_toNat,
      BitVec.setWidth_eq]
    rfl

/-- Settles O28: the glyph's number is the low nibble of V[x], the remainder modulo 16. -/
theorem glyphAddresses : Obligations.GlyphAddresses := by
  intro x s room
  refine ⟨?_, fun extended => ?_, fun chip8 => ?_⟩
  · rw [exec_of_goesOn room rfl rfl (.inl rfl), writes, smallGlyph, toNat_lowNibble, fontSmallBase, Nat.zero_add]
  · rw [exec_of_goesOn (i := .ldHf x) room rfl (fromSchip_iff.mpr extended) (.inl rfl), writes, bigGlyph,
      toNat_lowNibble, fontBigBase]
  · exact instructionOutsideVariantIsIllegal _ s (chip8 ▸ rfl)

/-! ### Memory after a run of writes from I (R48) -/

/-- The bytes before a run of n + 1 writes from I, and those past it, stay. -/
theorem readByte_of_mem_eq_memAfterRun_of_outside {s t : State} {bs : List Byte} (wf : Memory.wf s.mem = true)
    (mem : t.mem = memAfterRun s bs) {n : Nat} (length : bs.length = n + 1) {a : Nat}
    (outside : a < s.index.toNat ∨ s.index.toNat + n < a) : readByte t a = readByte s a := by
  rw [memAfterRun] at mem
  rw [readByte_congr mem, readByte_writeRun wf, if_neg (by omega)]

theorem length_regBytes (s : State) (xs : List RegIdx) : (regBytes s xs).length = xs.length := List.length_map ..

/-- After the digits of `b` are written from I, the three bytes there are its hundreds, tens and ones, and no other byte
has changed (R104). -/
theorem bytes_of_mem_eq_bcd {b : Byte} {s t : State} (wf : Memory.wf s.mem = true)
    (mem : t.mem = memAfterRun s (bcdDigits b)) :
    (readByte t s.index.toNat).toNat = b.toNat / 100 ∧
      (readByte t (s.index.toNat + 1)).toNat = b.toNat / 10 % 10 ∧
      (readByte t (s.index.toNat + 2)).toNat = b.toNat % 10 ∧
      ∀ a, (a < s.index.toNat ∨ s.index.toNat + 2 < a) → readByte t a = readByte s a := by
  have digit (j : Nat) (inRun : j < 3) :
      (readByte t (s.index.toNat + j)).toNat = ((bcdDigits b)[j]'inRun).toNat :=
    congrArg BitVec.toNat (readByte_of_mem_eq_memAfterRun wf mem inRun)
  have hundreds : b.toNat / 100 < 256 := by omega
  have tens : b.toNat / 10 % 10 < 256 := by omega
  have ones : b.toNat % 10 < 256 := by omega
  exact ⟨(digit 0 (by decide)).trans (Nat.mod_eq_of_lt hundreds), (digit 1 (by decide)).trans (Nat.mod_eq_of_lt tens),
    (digit 2 (by decide)).trans (Nat.mod_eq_of_lt ones),
    fun _ => readByte_of_mem_eq_memAfterRun_of_outside wf mem rfl⟩

/-- Settles O29: the run is the three digits of V[x]. -/
theorem bcdWritesTheDigits : Obligations.BcdWritesTheDigits := fun _ _ wf =>
  ⟨fun room range => ⟨_, exec_of_goesOn room rfl rfl (.inr range), rfl, bytes_of_mem_eq_bcd wf rfl⟩,
    raises_of_outside rfl rfl⟩

/-- Settles O30: the run is V0..V[x]. -/
theorem storeDumpsTheRegisters : Obligations.StoreDumpsTheRegisters := by
  intro x s wf
  refine ⟨fun room range => ⟨_, exec_store_of_range room range, ?_, fun z upTo => ?_,
    fun a => readByte_of_mem_eq_memAfterRun_of_outside wf rfl ((length_regBytes s _).trans (length_runTo x))⟩,
    raises_of_outside rfl rfl⟩
  · rw [indexAfterRun_eq]
  · rw [readByte_of_mem_eq_store wf rfl upTo, BitVec.ofNat_toNat, BitVec.setWidth_eq]

/-- The k-th register from V[x] towards V[y] is the (x + k)-th or the (x - k)-th (R107, R108). -/
theorem rangeReg_eq (x y : RegIdx) (k : Nat) :
    rangeReg x y k = BitVec.ofNat 4 (if x.toNat ≤ y.toNat then x.toNat + k else x.toNat - k) :=
  (apply_ite (BitVec.ofNat 4) _ _ _).symm

/-- Settles O33: the run is the registers from V[x] to V[y]. -/
theorem saveRangeStoresInOrder : Obligations.SaveRangeStoresInOrder := by
  intro x y s d wf distance
  obtain rfl : d = rangeDistance x y := distance
  have length : (regBytes s (rangeRegs x y)).length = rangeDistance x y + 1 :=
    (length_regBytes s _).trans (length_rangeRegs x y)
  refine ⟨fun xochip room range => ⟨_, exec_of_goesOn room rfl (onlyXochip_iff.mpr xochip) (.inr range), rfl,
    fun k upTo => ?_, fun a => readByte_of_mem_eq_memAfterRun_of_outside wf rfl length⟩,
    fun xochip => raises_of_outside (onlyXochip_iff.mpr xochip) rfl, raises_of_onlyXochip rfl⟩
  rw [readByte_of_mem_eq_memAfterRun wf rfl (by omega), ← rangeReg_eq]
  simp [regBytes, getElem_rangeRegs]

/-! ### V after a run of loads from I (R48) -/

/-- After V0..V[x] are loaded from `a`, V[z] is the byte z past `a`, for every z up to x. -/
theorem getV_loadRegs_runTo (s : State) (a : Nat) (x z : RegIdx) :
    getV (loadRegs s a (runTo x)) z = if z ≤ x then readByte s (a + z.toNat) else getV s z := by
  split
  · next upTo =>
    have inRun : z.toNat < (runTo x).length := length_runTo x ▸ Nat.lt_succ_of_le upTo
    have loaded := getV_loadRegs_getElem (s := s) (a := a) (nodup_runTo x) z.toNat inRun
    rwa [getElem_runTo, BitVec.ofNat_toNat, BitVec.setWidth_eq] at loaded
  · next past => exact getV_loadRegs_of_notMem (mt mem_runTo.mp past)

/-- Settles O31: the run of loads is of V0..V[x]. -/
theorem loadFillsTheRegisters : Obligations.LoadFillsTheRegisters := by
  intro x s
  refine ⟨fun room range => ⟨_, exec_of_goesOn room rfl rfl (.inr range), ?_, getV_loadRegs_runTo s _ x⟩,
    raises_of_outside rfl rfl⟩
  rw [writes, indexAfterRun_eq]

/-- Settles O32: STORE leaves V[z] at the byte z past I, and LOAD reads V[z] from there. -/
theorem storeThenLoadRoundTrips : Obligations.StoreThenLoadRoundTrips := by
  intro x s t u wf room range stored mem index size roomLoad
  obtain ⟨t', storeDone, -, bytes, -⟩ := (storeDumpsTheRegisters x s wf).1 room range
  obtain rfl : t' = t := Host.Outcome.next.inj (storeDone.symm.trans stored)
  have rangeLoad : IndexRange (x.toNat + 1) u := by rw [IndexRange, index, size]; exact range
  obtain ⟨w, loadDone, -, registers⟩ := (loadFillsTheRegisters x u).1 roomLoad rangeLoad
  refine ⟨w, loadDone, fun z upTo => ?_⟩
  rw [registers, if_pos upTo, index, readByte_congr mem, bytes z upTo]

/-- Settles O34: the registers from V[x] to V[y] are distinct, so each keeps the byte it was loaded with. -/
theorem loadRangeLoadsInOrder : Obligations.LoadRangeLoadsInOrder := by
  intro x y s d distance
  obtain rfl : d = rangeDistance x y := distance
  refine ⟨fun xochip room range => ⟨_, exec_of_goesOn room rfl (onlyXochip_iff.mpr xochip) (.inr range), rfl,
    fun k upTo => ?_, fun z outside => ?_⟩,
    fun xochip => raises_of_outside (onlyXochip_iff.mpr xochip) rfl, raises_of_onlyXochip rfl⟩
  · have inRun : k < (rangeRegs x y).length := length_rangeRegs x y ▸ Nat.lt_succ_of_le upTo
    have loaded := getV_loadRegs_getElem (s := s) (a := s.index.toNat) (nodup_rangeRegs x y) k inRun
    rwa [getElem_rangeRegs, rangeReg_eq] at loaded
  · have notNamed : z ∉ rangeRegs x y := by
      rw [mem_rangeRegs]
      bv_omega
    exact getV_loadRegs_of_notMem notNamed

/-! ### The persistent flags (R109, R110) -/

/-- Settles O35: FX75 and FX85 are legal exactly when x is below RPL_COUNT. -/
theorem persistentFlags : Obligations.PersistentFlags := by
  intro x s
  refine ⟨fun legal room => ?_, fun illegal => ?_⟩
  · have reached : x.toNat < rplCount s.variant := by
      obtain xochip | ⟨schip, low⟩ := legal
      · rw [xochip]; exact x.isLt
      · rw [schip]; exact Nat.lt_succ_of_le low
    refine ⟨⟨_, exec_of_goesOn room rfl (decide_eq_true reached) (.inl rfl), rfl, fun z => ?_⟩,
      ⟨_, exec_of_goesOn room rfl (decide_eq_true reached) (.inl rfl), rfl, fun z => ?_⟩⟩
    · exact (getRpl_saveRpl s (runTo x) z).trans (by simp only [mem_runTo])
    · exact (getV_loadRpl s (runTo x) z).trans (by simp only [mem_runTo])
  · have past : ¬ x.toNat < rplCount s.variant := by
      obtain chip8 | ⟨schip, high⟩ := illegal
      · rw [chip8]; exact Nat.not_lt_zero _
      · rw [schip]; exact Nat.not_lt_of_le high
    exact ⟨instructionOutsideVariantIsIllegal _ s (decide_eq_false past),
      instructionOutsideVariantIsIllegal _ s (decide_eq_false past)⟩

end Sys2Proof.Machine
end

section
/-! PROOF. The display (44_display R112 to R130): the palette index, the operations on whole planes, and draws, where
each dot of the compositor is a set sprite bit that lands on a window pixel. -/

namespace Sys2Proof.Machine

/-! ### Composition and PLANE (R112, R129) -/

/-- Settles O46: the index is the bit of plane 3 with the bits of planes 2, 1 and 0 appended in turn. -/
theorem paletteIndexIsThePlanesBits : Obligations.PaletteIndexIsThePlanesBits := by
  intro s x y
  have appended : paletteIndex s x y =
      (((BitVec.ofBool (Plane.get s.planes[3] x y)).concat (Plane.get s.planes[2] x y)).concat
        (Plane.get s.planes[1] x y)).concat (Plane.get s.planes[0] x y) := rfl
  rw [appended]
  simp only [BitVec.toNat_concat, BitVec.toNat_ofBool]
  omega

/-- Settles O41: PLANE writes PLANE_MASK alone. -/
theorem planeSelectsTheMask : Obligations.PlaneSelectsTheMask := fun _ _ =>
  ⟨fun xochip room => exec_of_goesOn room rfl (onlyXochip_iff.mpr xochip) (.inl rfl), raises_of_onlyXochip rfl⟩

/-! ### Operations on whole planes (R113, R114, R115) -/

section
variable {i : Instr} {s : State}

/-- An instruction that applies an operation to the selected planes completes, and changes them and PC alone. -/
theorem completes_of_onSelected {f : Plane → Plane} (room : Room 2 s) (goes : goesOn i = true)
    (legal : i.legalIn s.variant = true) (noBytes : reach i s = 0) (effect : writes i s = onSelected s f) :
    Completes i s fun t => t = { s with planes := t.planes, pc := s.pc + 2#16 } ∧
      ∀ k : Fin 4, t.planes[k] = if s.planeMask.getLsbD k then f s.planes[k] else s.planes[k] := by
  refine ⟨_, exec_of_goesOn room goes legal (.inl noBytes), ?_⟩
  rw [effect]
  exact ⟨rfl, onSelected_plane s f⟩

/-- A scroll completes: `pixel p x y` is the pixel it leaves at (x, y) of the window of a selected plane `p`. -/
theorem completes_of_scroll {f : Plane → Plane} {pixel : Plane → Nat → Nat → Bool} (room : Room 2 s)
    (goes : goesOn i = true) (legal : i.legalIn s.variant = true) (noBytes : reach i s = 0)
    (effect : writes i s = onSelected s f)
    (scrolled : ∀ p x y, x < width s.res → y < height s.res → Plane.get (f p) x y = pixel p x y) :
    Completes i s fun t => t = { s with planes := t.planes, pc := s.pc + 2#16 } ∧
      ∀ k : Fin 4, (s.planeMask.getLsbD k = false → t.planes[k] = s.planes[k]) ∧
        (s.planeMask.getLsbD k = true → ∀ x y, x < width s.res → y < height s.res →
          Plane.get t.planes[k] x y = pixel s.planes[k] x y) := by
  obtain ⟨t, done, frame, plane⟩ := completes_of_onSelected room goes legal noBytes effect
  refine ⟨t, done, frame, fun k => ⟨fun unselected => ?_, fun selected => ?_⟩⟩
  · rw [plane, unselected, if_neg Bool.false_ne_true]
  · rw [plane, selected, if_pos rfl]
    exact scrolled _

/-- An instruction that selects a resolution completes with every plane cleared. -/
theorem completes_of_setResolution {mode : Resolution} (room : Room 2 s) (goes : goesOn i = true)
    (legal : i.legalIn s.variant = true) (noBytes : reach i s = 0) (effect : writes i s = setResolution s mode) :
    Completes i s fun t => t = { s with planes := t.planes, res := mode, pc := s.pc + 2#16 } ∧
      ∀ (k : Fin 4) (x y : Nat), Plane.get t.planes[k] x y = false := by
  refine ⟨_, exec_of_goesOn room goes legal (.inl noBytes), ?_⟩
  rw [effect]
  refine ⟨rfl, fun k x y => ?_⟩
  have cleared : (setResolution s mode).planes[k] = Plane.clear := Vector.getElem_replicate k.isLt
  exact (congrArg (Plane.get · x y) cleared).trans (Plane.get_clear x y)

end

/-- Settles O37: clear() is the operation that answers the empty plane. -/
theorem clearSelectedPlanes : Obligations.ClearSelectedPlanes := by
  intro s room
  obtain ⟨t, done, frame, plane⟩ := completes_of_onSelected (i := .cls) (f := fun _ => Plane.clear) room rfl rfl rfl rfl
  refine ⟨t, done, frame, fun k x y => ?_⟩
  rw [plane]
  cases s.planeMask.getLsbD k
  · rfl
  · exact Plane.get_clear x y

/-- What holds of each of two holds of every member of their list. -/
theorem forall_mem_pair {α : Type} {P : α → Prop} {a b : α} (first : P a) (second : P b) : ∀ c ∈ [a, b], P c :=
  List.forall_mem_cons.mpr ⟨first, List.forall_mem_singleton.mpr second⟩

/-- Settles O40: LOW and HIGH are set-resolution. -/
theorem resolutionSwitchClearsAllPlanes : Obligations.ResolutionSwitchClearsAllPlanes := by
  intro s
  refine ⟨fun extended room => ?_, fun chip8 => ⟨instructionOutsideVariantIsIllegal _ s (chip8 ▸ rfl),
    instructionOutsideVariantIsIllegal _ s (chip8 ▸ rfl)⟩⟩
  have legal := fromSchip_iff.mpr extended
  exact forall_mem_pair (completes_of_setResolution room rfl legal rfl rfl)
    (completes_of_setResolution room rfl legal rfl rfl)

section
variable (r : Resolution) (n : Nat) (p : Plane) (x y : Nat)

theorem Plane.get_scrollDown (inX : x < width r) (inY : y < height r) :
    Plane.get (Plane.scrollDown r n p) x y = if n ≤ y then Plane.get p x (y - n) else false := by
  rw [Plane.scrollDown, Plane.get_mapWindow, if_pos ⟨inX, inY⟩]
  split
  · have source : x < width r ∧ y - n < height r := ⟨inX, by omega⟩
    rw [Plane.getLsbD_windowRow, decide_eq_true source, Bool.true_and]
  · exact BitVec.getLsbD_zero

theorem Plane.get_scrollUp (inX : x < width r) (inY : y < height r) :
    Plane.get (Plane.scrollUp r n p) x y = if y + n < height r then Plane.get p x (y + n) else false := by
  rw [Plane.scrollUp, Plane.get_mapWindow, if_pos ⟨inX, inY⟩, Plane.getLsbD_windowRow]
  simp [inX]

theorem Plane.get_scrollRight (inX : x < width r) (inY : y < height r) :
    Plane.get (Plane.scrollRight r p) x y = if 4 ≤ x then Plane.get p (x - 4) y else false := by
  have inRow : x < 128 := inX.trans_le (by cases r <;> decide)
  rw [Plane.scrollRight, Plane.get_mapWindow, if_pos ⟨inX, inY⟩, BitVec.getLsbD_shiftLeft, Plane.getLsbD_windowRow,
    decide_eq_true inRow, Bool.true_and]
  split
  · next filled =>
    have source : x - 4 < width r ∧ y < height r := ⟨by omega, inY⟩
    rw [decide_eq_false (Nat.not_lt.mpr filled), decide_eq_true source, Bool.not_false, Bool.true_and, Bool.true_and]
  · next zeroFilled =>
    rw [decide_eq_true (Nat.lt_of_not_le zeroFilled), Bool.not_true, Bool.false_and]

theorem Plane.get_scrollLeft (inX : x < width r) (inY : y < height r) :
    Plane.get (Plane.scrollLeft r p) x y = if x + 4 < width r then Plane.get p (x + 4) y else false := by
  rw [Plane.scrollLeft, Plane.get_mapWindow, if_pos ⟨inX, inY⟩, BitVec.getLsbD_ushiftRight, Plane.getLsbD_windowRow]
  simp [inY, Nat.add_comm 4]

end

/-- Settles O38: each pixel of the window is the one n rows up or down, where the window has it. -/
theorem verticalScrolls : Obligations.VerticalScrolls := fun n s room =>
  ⟨fun extended => (completes_of_scroll (i := .scd n) room rfl (fromSchip_iff.mpr extended) rfl rfl
      (Plane.get_scrollDown s.res n.toNat) :),
    fun xochip => (completes_of_scroll (i := .scu n) room rfl (onlyXochip_iff.mpr xochip) rfl rfl
      (Plane.get_scrollUp s.res n.toNat) :),
    fun chip8 => instructionOutsideVariantIsIllegal _ s (chip8 ▸ rfl), raises_of_onlyXochip rfl⟩

/-- Settles O39: each pixel of the window is the one 4 columns left or right, where the window has it. -/
theorem horizontalScrolls : Obligations.HorizontalScrolls := fun s room =>
  ⟨fun extended => (completes_of_scroll (i := .scr) room rfl (fromSchip_iff.mpr extended) rfl rfl
      (Plane.get_scrollRight s.res) :),
    fun extended => (completes_of_scroll (i := .scl) room rfl (fromSchip_iff.mpr extended) rfl rfl
      (Plane.get_scrollLeft s.res) :),
    fun chip8 => ⟨instructionOutsideVariantIsIllegal _ s (chip8 ▸ rfl),
      instructionOutsideVariantIsIllegal _ s (chip8 ▸ rfl)⟩⟩

/-! ### The two draws in one form (R116, R119, R120, R121) -/

/-- `i` draws a sprite of size `z`, which fits every window, at (V[x], V[y]), and reads `bytes` bytes for each selected
plane. -/
structure Draws (i : Instr) (x y : RegIdx) (z : SpriteSize) (bytes : Nat) : Prop where
  goes   : goesOn i = true
  rows   : z.rows ≤ 16
  cols   : z.cols ≤ 16
  reach  : ∀ s, reach i s = planeRank s 4 * bytes
  effect : ∀ s, writes i s = drawSprite s z (getV s x) (getV s y)

theorem draws_drw (x y : RegIdx) (n : Nibble) : Draws (.drw x y n) x y { rows := n.toNat, cols := 8 } n.toNat where
  goes := rfl
  rows := n.isLt.le
  cols := show 8 ≤ 16 by decide
  reach s := congrArg (· * n.toNat) (planeRank_four s).symm
  effect _ := rfl

theorem draws_drw16 (x y : RegIdx) : Draws (.drw16 x y) x y { rows := 16, cols := 16 } 32 where
  goes := rfl
  rows := by decide
  cols := by decide
  reach s := congrArg (· * 32) (planeRank_four s).symm
  effect _ := rfl

theorem sixteen_le_height (r : Resolution) : 16 ≤ height r := by cases r <;> decide

theorem sixteen_le_width (r : Resolution) : 16 ≤ width r := by cases r <;> decide

/-- The wait of the vblank quirk as PROFILE's bit (R121). -/
theorem drawSprite_pending (s : State) (z : SpriteSize) (cx cy : Byte) :
    (drawSprite s z cx cy).pending = if s.profile.getLsbD 5 = true then .vblankWait else s.pending := by
  cases bit : s.profile.getLsbD 5 <;> simp only [drawSprite, vblankQuirk, bit] <;> rfl

section
variable {i : Instr} {x y : RegIdx} {z : SpriteSize} {bytes : Nat} {s : State} (draws : Draws i x y z bytes)
include draws

/-- A legal draw whose sprite bytes lie in memory commits draw-sprite. -/
theorem Draws.exec_eq (room : Room 2 s) (legal : i.legalIn s.variant = true)
    (inRange : planeRank s 4 * bytes = 0 ∨ IndexRange (planeRank s 4 * bytes) s) :
    exec i s = .next { drawSprite s z (getV s x) (getV s y) with pc := s.pc + 2#16 } := by
  rw [← draws.reach] at inRange
  rw [exec_of_goesOn room draws.goes legal inRange, draws.effect]

/-- What a draw changes, and the fault of a sprite outside memory. -/
theorem Draws.complete (legal : i.legalIn s.variant = true) :
    (Room 2 s → planeRank s 4 * bytes = 0 ∨ IndexRange (planeRank s 4 * bytes) s → Completes i s fun t =>
      t = { s with
        planes := t.planes, v := t.v, pc := s.pc + 2#16
        pending := if s.profile.getLsbD 5 = true then .vblankWait else s.pending } ∧
      (∀ z, z ≠ 0xF#4 → getV t z = getV s z) ∧
      ∀ k : Fin 4, s.planeMask.getLsbD k = false → t.planes[k] = s.planes[k]) ∧
    (planeRank s 4 * bytes ≠ 0 → ¬ IndexRange (planeRank s 4 * bytes) s →
      Raises i s .addressFault (some (lowestOutside s))) := by
  refine ⟨fun room inRange => ⟨_, draws.exec_eq room legal inRange, ?_, fun r notVF => ?_, fun k unselected => ?_⟩,
    fun nonzero outside => ?_⟩
  · rw [← drawSprite_pending]
    rfl
  · exact (getV_setVF s r _).trans (if_neg notVF)
  · exact drawnPlanes_of_unselected unselected
  · obtain ⟨m, size⟩ := Nat.exists_eq_add_one_of_ne_zero nonzero
    exact raises_of_outside legal ((draws.reach s).trans size) (size ▸ outside)

/-- A draw that takes no fault leaves draw-sprite's planes. -/
theorem Draws.planes_eq {t : State} (done : exec i s = .next t) (sound : t.fault = none) :
    t.planes = drawnPlanes s z (getV s x) (getV s y) := by
  obtain ⟨kind, word, addr, -, rfl⟩ | committed := exec_cases done
  · cases sound
  · rw [committed.result, draws.effect]
    rfl

end

/-- Settles O42: DRW reads n bytes per plane, and DRW16 reads 32. -/
theorem drawsComplete : Obligations.DrawsComplete := fun x y n s =>
  ⟨forall_mem_pair (draws_drw x y n).complete (draws_drw16 x y).complete,
    fun chip8 => instructionOutsideVariantIsIllegal _ s (chip8 ▸ rfl)⟩

/-! ### Where the dots of a sprite fall (R116, R117) -/

/-- The clip quirk drops what does not land in the window, and the rest is a dot on the pixel it lands on. -/
theorem placeDot_eq_some_iff {s : State} {cx cy : Byte} {r c px py : Nat} :
    placeDot s (cx.toNat % width s.res) (cy.toNat % height s.res) r c = some { row := r, px, py } ↔
      inWindow s px py ∧ lands s cx cy r c px py = true := by
  have positiveW : 0 < width s.res := Nat.lt_of_lt_of_le (by decide) (sixteen_le_width s.res)
  have positiveH : 0 < height s.res := Nat.lt_of_lt_of_le (by decide) (sixteen_le_height s.res)
  cases quirk : clipQuirk s
  case wrap =>
    simp only [placeDot, lands, inWindow, quirk, reduceCtorEq, false_and, if_false, Option.some.injEq, Dot.mk.injEq,
      true_and, Bool.and_eq_true, beq_iff_eq]
    refine ⟨fun ⟨atX, atY⟩ => ⟨⟨?_, ?_⟩, atX, atY⟩, And.right⟩
    · exact atX ▸ Nat.mod_lt _ positiveW
    · exact atY ▸ Nat.mod_lt _ positiveH
  case clip =>
    simp only [placeDot, lands, inWindow, quirk, true_and, Bool.and_eq_true, beq_iff_eq]
    split
    · next outside =>
      simp only [reduceCtorEq, false_iff]
      omega
    · next inside =>
      rw [not_or, Nat.not_le, Nat.not_le] at inside
      obtain ⟨inX, inY⟩ := inside
      rw [Nat.mod_eq_of_lt inX, Nat.mod_eq_of_lt inY, Option.some.injEq, Dot.mk.injEq]
      omega

/-- A pixel has a dot on it when some row has one there. -/
theorem mem_map_pos {ds : List Dot} {px py : Nat} :
    (px, py) ∈ ds.map Dot.pos ↔ ∃ r, { row := r, px, py } ∈ ds := by
  simp only [List.mem_map, Dot.pos, Prod.mk.injEq]
  constructor
  · rintro ⟨d, mem, rfl, rfl⟩
    exact ⟨d.row, mem⟩
  · rintro ⟨r, mem⟩
    exact ⟨_, mem, rfl, rfl⟩

/-- A sprite of n rows and 8 columns takes n bytes. -/
theorem bytes_drw (n : Nat) : SpriteSize.bytes { rows := n, cols := 8 } = n := by simp [SpriteSize.bytes]

/-- The number of planes selected below plane k, counted and listed. -/
theorem planeRank_eq (s : State) (k : Nat) : planeRank s k = selectedBelow s k := by
  rw [planeRank, selectedBelow, List.countP_eq_length_filter]

/-- `bit k` is the sprite of size `z` in plane k's block of bytes from I. -/
def SpriteBits (s : State) (z : SpriteSize) (bit : Nat → Nat → Nat → Bool) : Prop :=
  ∀ k r c, c < z.cols → bit k r c = spriteBit s (s.index.toNat + selectedBelow s k * z.bytes) z.cols r c

theorem spriteBits_drw (s : State) (n : Nibble) : SpriteBits s { rows := n.toNat, cols := 8 } (drwBit s n) := by
  intro k r c inRow
  have lone : c / 8 = 0 ∧ c % 8 = c := ⟨Nat.div_eq_of_lt inRow, Nat.mod_eq_of_lt inRow⟩
  simp only [drwBit, spriteBit, planeRank_eq, bytes_drw, lone, Nat.div_self, Nat.reduceLT, Nat.mul_one, Nat.add_zero]

theorem spriteBits_drw16 (s : State) : SpriteBits s { rows := 16, cols := 16 } (drw16Bit s) := by
  intro k r c _
  simp only [drw16Bit, spriteBit, planeRank_eq, SpriteSize.bytes, Nat.mul_comm 2 r, Nat.reduceDiv, Nat.reduceMul]

section
variable {s : State} {z : SpriteSize} {bit : Nat → Nat → Nat → Bool} {cx cy : Byte}

/-- A dot of a plane is a set bit of its sprite that lands on a window pixel. -/
theorem mem_planeDots (bits : SpriteBits s z bit) {k : Fin 4} {r px py : Nat} :
    { row := r, px, py } ∈ planeDots s z cx cy k ↔
      r < z.rows ∧ inWindow s px py ∧ ∃ c < z.cols, bit k r c = true ∧ lands s cx cy r c px py = true := by
  rw [planeDots, mem_spriteDots]
  constructor
  · rintro ⟨r', inRows, c, inCols, set, placed⟩
    obtain ⟨rfl, -, -⟩ := placeDot_eq_some placed
    obtain ⟨inside, landed⟩ := placeDot_eq_some_iff.mp placed
    exact ⟨inRows, inside, c, inCols, (bits _ _ _ inCols).trans set, landed⟩
  · rintro ⟨inRows, inside, c, inCols, set, landed⟩
    exact ⟨r, inRows, c, inCols, (bits _ _ _ inCols).symm.trans set, placeDot_eq_some_iff.mpr ⟨inside, landed⟩⟩

/-- The window pixels that `toggled` names are those of selected planes with a dot on them. -/
theorem toggled_iff (bits : SpriteBits s z bit) {k : Fin 4} {px py : Nat} :
    inWindow s px py ∧ toggled s bit z.rows z.cols cx cy k px py = true ↔
      s.planeMask.getLsbD k = true ∧ (px, py) ∈ (planeDots s z cx cy k).map Dot.pos := by
  simp only [mem_map_pos, mem_planeDots bits, toggled, Bool.and_eq_true, List.any_eq_true, List.mem_range]
  constructor
  · rintro ⟨inside, selected, r, inRows, landed⟩
    exact ⟨selected, r, inRows, inside, landed⟩
  · rintro ⟨selected, r, inRows, inside, landed⟩
    exact ⟨inside, selected, r, inRows, landed⟩

/-- A row collides when in some plane it is one of those the compositor collects. -/
theorem rowCollides_iff (bits : SpriteBits s z bit) (rows : z.rows ≤ height s.res) (cols : z.cols ≤ width s.res)
    {r : Nat} (inRows : r < z.rows) :
    rowCollides s bit z.cols cx cy r = true ↔ ∃ k : Fin 4, r ∈ (drawPlane s z cx cy k).2 := by
  simp only [rowCollides, List.any_eq_true, List.mem_finRange, true_and, Bool.and_eq_true, List.mem_range,
    mem_drawPlane_hits rows cols]
  refine exists_congr fun k => and_congr_right fun _ => ?_
  constructor
  · rintro ⟨c, inCols, set, px, inX, py, inY, landed, hit⟩
    exact ⟨{ row := r, px, py }, (mem_planeDots bits).mpr ⟨inRows, ⟨inX, inY⟩, c, inCols, set, landed⟩, rfl, hit⟩
  · rintro ⟨⟨_, px, py⟩, dot, rfl, hit⟩
    obtain ⟨-, ⟨inX, inY⟩, c, inCols, set, landed⟩ := (mem_planeDots bits).mp dot
    exact ⟨c, inCols, set, px, inX, py, inY, landed, hit⟩

/-- ROWS is the number of rows that collide (R118). -/
theorem collidedRows_eq (bits : SpriteBits s z bit) (rows : z.rows ≤ height s.res) (cols : z.cols ≤ width s.res) :
    collidedRows s z cx cy = (List.range z.rows).countP (rowCollides s bit z.cols cx cy) := by
  refine List.countP_congr fun r mem => ?_
  rw [rowCollides_iff bits rows cols (List.mem_range.mp mem)]
  simp

end

/-! ### What a draw leaves in the planes and in VF (R117, R118, R130) -/

/-- The collision quirk as PROFILE's bit (R118). -/
theorem toNat_collisionFlag (s : State) {rows : Nat} (byte : rows < 256) :
    (collisionFlag s rows).toNat = if s.profile.getLsbD 7 = true then rows else if 0 < rows then 1 else 0 := by
  cases quirk : s.profile.getLsbD 7
  · simp only [collisionFlag, collisionQuirk, quirk, Bool.false_eq_true, if_false]
    exact toNat_flagByte _
  · simp only [collisionFlag, collisionQuirk, quirk, if_true]
    exact (BitVec.toNat_ofNat rows 8).trans (Nat.mod_eq_of_lt byte)

section
variable {i : Instr} {x y : RegIdx} {z : SpriteSize} {s : State} {bit : Nat → Nat → Nat → Bool} {bytes : Nat}
  (draws : Draws i x y z bytes)
include draws

theorem Draws.rows_le : z.rows ≤ height s.res := draws.rows.trans (sixteen_le_height _)

theorem Draws.cols_le : z.cols ≤ width s.res := draws.cols.trans (sixteen_le_width _)

/-- A draw toggles the window pixels that `toggled` names. -/
theorem Draws.toggles (bits : SpriteBits s z bit) (room : Room 2 s) (legal : i.legalIn s.variant = true)
    (inRange : planeRank s 4 * bytes = 0 ∨ IndexRange (planeRank s 4 * bytes) s) : Completes i s fun t =>
      ∀ (k : Fin 4) (px py : Nat), Plane.get t.planes[k] px py =
        (Plane.get s.planes[k] px py ^^ (px < width s.res && py < height s.res &&
          toggled s bit z.rows z.cols (getV s x) (getV s y) k px py)) := by
  refine ⟨_, draws.exec_eq room legal inRange, fun k px py => ?_⟩
  have dots : (decide (px < width s.res) && decide (py < height s.res) &&
        toggled s bit z.rows z.cols (getV s x) (getV s y) k px py) =
      (s.planeMask.getLsbD k && decide ((px, py) ∈ (planeDots s z (getV s x) (getV s y) k).map Dot.pos)) := by
    rw [Bool.eq_iff_iff, Bool.and_eq_true, Bool.and_eq_true, Bool.and_eq_true, decide_eq_true_iff, decide_eq_true_iff,
      decide_eq_true_iff]
    exact toggled_iff bits
  rw [dots]
  exact get_drawnPlanes draws.rows_le draws.cols_le _ _ k px py

/-- A draw leaves in VF the number of rows that collide, or whether there is one. -/
theorem Draws.reports (bits : SpriteBits s z bit) (room : Room 2 s) (legal : i.legalIn s.variant = true)
    (inRange : planeRank s 4 * bytes = 0 ∨ IndexRange (planeRank s 4 * bytes) s) : Completes i s fun t =>
      ∀ rows, rows = (List.range z.rows).countP (rowCollides s bit z.cols (getV s x) (getV s y)) →
        rows ≤ 16 ∧ (getV t 0xF#4).toNat = if s.profile.getLsbD 7 = true then rows else if 0 < rows then 1 else 0 := by
  refine ⟨_, draws.exec_eq room legal inRange, fun rows count => ?_⟩
  rw [← collidedRows_eq bits draws.rows_le draws.cols_le] at count
  have most : rows ≤ 16 := calc
    rows ≤ (List.range z.rows).length := count ▸ List.countP_le_length
    _ = z.rows := List.length_range
    _ ≤ 16 := draws.rows
  refine ⟨most, ?_⟩
  rw [← toNat_collisionFlag s (show rows < 256 by omega), count]
  exact congrArg BitVec.toNat (getV_setVF s 0xF#4 _)

end

/-- Settles O43: the dots of each plane are the sprite bits that land in the window, on distinct pixels. -/
theorem drawTogglesExactlyTheSprite : Obligations.DrawTogglesExactlyTheSprite := fun x y n s room =>
  forall_mem_pair ((draws_drw x y n).toggles (spriteBits_drw s n) room)
    ((draws_drw16 x y).toggles (spriteBits_drw16 s) room)

/-- Settles O44: the rows the compositor collects are those with a set bit on a set window pixel. -/
theorem drawReportsCollidedRows : Obligations.DrawReportsCollidedRows := fun x y n s room =>
  forall_mem_pair ((draws_drw x y n).reports (spriteBits_drw s n) room)
    ((draws_drw16 x y).reports (spriteBits_drw16 s) room)

section
variable {s u : State}

theorem placeDot_congr (res : u.res = s.res) (profile : u.profile = s.profile) (x0 y0 r c : Nat) :
    placeDot u x0 y0 r c = placeDot s x0 y0 r c := by
  simp only [placeDot, clipQuirk, res, profile]
  rfl

/-- The dots of a plane depend on I, PLANE_MASK, RES, PROFILE and memory alone. -/
theorem planeDots_congr (index : u.index = s.index) (mask : u.planeMask = s.planeMask) (res : u.res = s.res)
    (profile : u.profile = s.profile) (mem : u.mem = s.mem) (z : SpriteSize) (cx cy : Byte) (k : Fin 4) :
    planeDots u z cx cy k = planeDots s z cx cy k := by
  simp only [planeDots, spriteDots, spriteBit, selectedBelow, placeDot_congr res profile, readByte_congr mem, index,
    mask, res]
  rfl

end

/-- Settles O45: the second draw has the same dots on the same planes, and toggling a pixel twice leaves it. -/
theorem drawTwiceRestoresThePlanes : Obligations.DrawTwiceRestoresThePlanes := by
  intro x y n s t u w i mem first soundFirst planes index vx vy mask res profile memory second soundSecond
  obtain ⟨z, bytes, draws⟩ : ∃ z bytes, Draws i x y z bytes :=
    forall_mem_pair (P := fun i => ∃ z bytes, Draws i x y z bytes) ⟨_, _, draws_drw x y n⟩ ⟨_, _, draws_drw16 x y⟩ i mem
  rw [draws.planes_eq first soundFirst] at planes
  have restored (k : Fin 4) (px py : Nat) : Plane.get w.planes[k] px py = Plane.get s.planes[k] px py := by
    rw [draws.planes_eq second soundSecond, vx, vy, get_drawnPlanes draws.rows_le draws.cols_le, planes, mask,
      planeDots_congr index mask res profile memory, get_drawnPlanes draws.rows_le draws.cols_le, Bool.xor_assoc,
      Bool.xor_self, Bool.xor_false]
  exact Vector.ext fun k inRange => Plane.ext fun px py _ _ => restored ⟨k, inRange⟩ px py

end Sys2Proof.Machine
end

section
/-! PROOF. Timers, keypad and audio (45_timers_keys_audio R131 to R141): the key skips, the end of a key wait, what the
timer, key and audio instructions commit, and tick. -/

namespace Sys2Proof.Machine

/-! ### The key skips (R138, R139) -/

/-- The key a register selects, by its number modulo 16. -/
theorem keyDown_lowNibble (s : State) (b : Byte) : keyDown s (lowNibble b) = s.keys.getLsbD (b.toNat % 16) :=
  congrArg s.keys.getLsbD (toNat_lowNibble b)

/-- Settles O19: both are `skipIf`, of the key's flag and of its negation. -/
theorem keySkips : Obligations.KeySkips := by
  intro x s target targetEq p mem
  obtain rfl : target = skipPc s := targetEq.trans (skipPc_eq s).symm
  have meaning : exec p.1 s = skipIf p.1 s p.2 := by
    rw [← keyDown_lowNibble] at mem
    simp only [List.mem_cons, List.not_mem_nil, or_false] at mem
    obtain rfl | rfl := mem <;> rfl
  exact ⟨exec_of_skip_taken meaning, raises_of_skip_taken meaning, exec_of_skip_not_taken meaning,
    raises_of_skip_not_taken meaning⟩

/-! ### set-key (R136) -/

section
variable {k : Nibble} {pressed : Bool} {s : State}

/-- The edge that ends a key wait, by PROFILE's bit: the call makes the key the bit's negation, and it was the bit. -/
theorem resolves_iff : resolves (keyEdge s) (keyDown s k) pressed = true ↔
    pressed = (!s.profile.getLsbD 6) ∧ keyDown s k = s.profile.getLsbD 6 := by
  rw [keyEdge]
  cases s.profile.getLsbD 6 with
  | false => simp [resolves, and_comm]
  | true => simp [resolves, and_comm]

theorem setKey_of_edge {r : RegIdx} (waits : s.pending = .keyWait r)
    (edge : resolves (keyEdge s) (keyDown s k) pressed = true) :
    setKey k pressed s = { setV (setKeyFlag s k pressed) r (k.setWidth 8) with pending := .none } := by
  simp only [setKey, waits, edge, if_true]

theorem setKey_of_no_edge (noEdge : ∀ r, s.pending = .keyWait r → resolves (keyEdge s) (keyDown s k) pressed ≠ true) :
    setKey k pressed s = setKeyFlag s k pressed := by
  cases waits : s.pending with
  | keyWait r => simp only [setKey, waits, if_neg (noEdge r waits)]
  | none => simp only [setKey, waits]
  | vblankWait => simp only [setKey, waits]

theorem setKey_frame : setKey k pressed s =
    { s with keys := (setKey k pressed s).keys, v := (setKey k pressed s).v, pending := (setKey k pressed s).pending } := by
  obtain flag | ⟨r, resolved⟩ := setKey_cases k pressed s
  · rw [flag]; rfl
  · rw [resolved]; rfl

theorem keyDown_setKey (j : Nibble) : keyDown (setKey k pressed s) j = if j = k then pressed else keyDown s j := by
  obtain flag | ⟨r, resolved⟩ := setKey_cases k pressed s
  · rw [flag]; exact keyDown_setKeyFlag s k j pressed
  · rw [resolved]; exact keyDown_setKeyFlag s k j pressed

end

/-- Settles O51: the frame and the flag hold of every call; V and PENDING change exactly when a key wait meets its
edge. -/
theorem setKeyResolvesTheWait : Obligations.SetKeyResolvesTheWait := by
  rintro k pressed s t rfl
  refine ⟨setKey_frame, keyDown_setKey, fun r waits made was => ?_, fun missed => ?_⟩
  · rw [setKey_of_edge waits (resolves_iff.mpr ⟨made, was⟩)]
    refine ⟨rfl, fun z => ?_⟩
    rw [BitVec.ofNat_toNat]
    exact getV_setV (setKeyFlag s k pressed) r z _
  · rw [setKey_of_no_edge fun r waits edge => ?_]
    · exact ⟨rfl, rfl⟩
    · obtain ⟨made, was⟩ := resolves_iff.mp edge
      obtain noWait | otherCall | otherKey := missed
      · exact noWait r waits
      · exact otherCall made
      · exact otherKey was

/-! ### LD_VX_DT, LD_DT, LD_ST and LD_VX_K (R133 to R135, R137) -/

/-- Settles O47: LD_VX_DT writes V[x] alone, LD_DT and LD_ST each their timer alone. -/
theorem timerRegisters : Obligations.TimerRegisters := fun _ _ room =>
  ⟨completes_of_setV id room rfl, advance_of_lt room, advance_of_lt room⟩

/-- Settles O48: the latched key wait is a stop state, and no fault or halt precedes it among the entry checks. -/
theorem keyWaitSuspends : Obligations.KeyWaitSuspends := by
  intro x s room fault halted
  obtain ⟨-, -, waiting, -⟩ := entryChecks { s with pending := .keyWait x, pc := s.pc + 2#16 }
  exact ⟨_, advance_of_lt room, rfl, waiting x fault halted rfl⟩

/-! ### AUDIO and LD_PITCH (R140, R141) -/

theorem getElem_patternAtIndex (s : State) (k : Fin 16) :
    (patternAtIndex s)[k] = readByte s (s.index.toNat + k) := by
  rw [patternAtIndex]
  exact Vector.getElem_ofFn k.isLt

/-- Settles O49: both are XOCHIP's alone, and AUDIO alone accesses memory. -/
theorem audioRegisters : Obligations.AudioRegisters := by
  intro x s
  refine ⟨fun xochip room inRange => ?_, fun xochip outside => ?_, fun xochip room => ?_, fun other => ?_⟩
  · have done := exec_of_goesOn (i := .audio) room rfl (onlyXochip_iff.mpr xochip) (.inr inRange)
    exact ⟨_, done, rfl, getElem_patternAtIndex s⟩
  · exact raises_of_outside (onlyXochip_iff.mpr xochip) rfl outside
  · exact exec_of_goesOn room rfl (onlyXochip_iff.mpr xochip) (.inl rfl)
  · exact ⟨raises_of_onlyXochip rfl other, raises_of_onlyXochip rfl other⟩

/-! ### tick (R131) -/

/-- A timer counts down by n and stops at zero. -/
theorem toNat_countDown (timer : Byte) (n : Nat) :
    (BitVec.ofNat 8 (timer.toNat - n)).toNat = max 0 (timer.toNat - n) := by
  rw [Nat.zero_max, BitVec.toNat_ofNat, Nat.mod_eq_of_lt (by omega)]

theorem tick_zero (s : State) : tick 0 s = s := by
  simp [tick]

/-- Settles O50: DT, ST and PENDING are all that tick writes. -/
theorem tickCountsDown : Obligations.TickCountsDown := fun n s =>
  ⟨rfl, toNat_countDown s.dt n, toNat_countDown s.st n, rfl, tick_zero s⟩

end Sys2Proof.Machine
end

section
/-! PROOF. The run-time faults (60_exceptions R145, R146, R149): the exact cause of each kind that an instruction or a
step raises, and that a faulting step changes nothing else. -/

namespace Sys2Proof.Machine

section
variable {i : Instr} {s t : State} {r : FaultRecord}

/-! ### What the record of an instruction's fault tells (R145, R146, R147) -/

/-- `r` names PC and the word of `i`, and its kind tells which of the guards of `i` did not pass in `s`. -/
structure RecordOf (i : Instr) (s : State) (r : FaultRecord) : Prop where
  pc      : r.pc = s.pc
  word    : r.word = some (firstWord i)
  illegal : r.kind = .illegalInstruction → i.legalIn s.variant = false
  stack   : r.kind = .stackFault → stackBlocked i s = true

/-- An instruction raises a fault whose kind tells which guard did not pass, or commits its writes and its final pc. -/
theorem exec_records_or_commits (i : Instr) (s : State) :
    (∃ r, exec i s = .next { s with fault := some r } ∧ RecordOf i s r) ∨
      exec i s = .next { writes i s with pc := BitVec.ofNat 16 (finalPc i s) } := by
  have outOfRange (addr : Nat) :
      RecordOf i s { kind := .addressFault, pc := s.pc, word := some (firstWord i), addr := some addr } :=
    ⟨rfl, rfl, nofun, nofun⟩
  rw [exec_eq i s]
  obtain ⟨-, e⟩ | ⟨illegal, e⟩ := requireLegal_cases i s _ <;> rw [e]
  · obtain ⟨-, e⟩ | ⟨bad, -, e⟩ := requireRange_cases i s _ _ _ <;> rw [e]
    · split
      · next blocked => exact .inl ⟨_, rfl, rfl, rfl, nofun, fun _ => blocked⟩
      · exact (commit_cases i s (writes i s) (finalPc i s)).symm.imp (fun h => ⟨_, h.2, outOfRange _⟩) And.right
    · exact .inl ⟨_, rfl, outOfRange bad⟩
  · exact .inl ⟨_, rfl, rfl, rfl, fun _ => illegal, nofun⟩

/-- A fault found after an instruction, in a state that had none before it, is the instruction's own. -/
theorem recordOf_of_exec (noFault : s.fault = none) (executed : exec i s = .next t) (fault : t.fault = some r) :
    RecordOf i s r := by
  obtain ⟨r', raised, record⟩ | committed := exec_records_or_commits i s
  · cases raised.symm.trans executed
    cases fault
    exact record
  · cases committed.symm.trans executed
    cases (noFault.symm.trans (writes_fault i s).symm).trans fault

/-! ### StackFault (R146) -/

theorem stackBlocked_iff :
    stackBlocked i s = true ↔ ((∃ nnn, i = .call nnn) ∧ sp s = s.params.stackDepth) ∨ (i = .ret ∧ sp s = 0) := by
  cases i with
  | call nnn => simp [stackBlocked]
  | ret => simp [stackBlocked, sp]
  | _ => simp [stackBlocked]

/-- CALL and RET check nothing before the stack. -/
theorem raises_of_stackBlocked (blocked : stackBlocked i s = true) : Raises i s .stackFault none := by
  obtain ⟨⟨nnn, rfl⟩, full⟩ | ⟨rfl, empty⟩ := stackBlocked_iff.mp blocked
  · exact call_raises_of_full full nnn
  · exact ret_raises_of_empty (List.length_eq_zero_iff.mp empty)

/-! ### IllegalInstruction (R145) -/

theorem step_of_undecodable (running : stopped s = false) (inMemory : s.pc.toNat + 2 ≤ memSize s)
    (undecodable : decode s.variant (readWord s s.pc.toNat) 0#16 = none) :
    step s = .next (raise { s with started := true } .illegalInstruction (some (readWord s s.pc.toNat)) none) := by
  have word : fetchWord { s with started := true } s.pc.toNat = .ok (readWord s s.pc.toNat) := fetchWord_of_le inMemory
  exact step_of_fetch_raised running (by simp only [fetch, word, undecodable])

/-- An instruction that the Variant has does not raise IllegalInstruction when a step runs it. -/
theorem not_illegal_of_step_eq_exec (running : stopped s = false) (stepped : step s = .next t)
    (fault : t.fault = some r) (legal : i.legalIn s.variant = true)
    (runs : step s = exec i { s with started := true }) : r.kind ≠ .illegalInstruction := by
  intro kind
  have noFault : { s with started := true }.fault = none := (stopped_eq_false.mp running).1
  have record := recordOf_of_exec noFault (runs.symm.trans stepped) fault
  exact Bool.false_ne_true ((record.illegal kind).symm.trans legal)

/-- The fetch of either word raises AddressFault, and a decoded instruction is legal, so that the word did not decode. -/
theorem undecodable_of_step_illegal (running : stopped s = false) (stepped : step s = .next t)
    (fault : t.fault = some r) (kind : r.kind = .illegalInstruction) :
    s.pc.toNat + 2 ≤ memSize s ∧ decode s.variant (readWord s s.pc.toNat) 0#16 = none := by
  by_cases inMemory : s.pc.toNat + 2 ≤ memSize s
  · refine ⟨inMemory, Option.eq_none_iff_forall_ne_some.mpr fun i decoded => ?_⟩
    obtain ⟨runsShort, runsLong⟩ := stepRunsTheDecodedInstruction s i running inMemory decoded
    cases long : isLong s.variant (readWord s s.pc.toNat) with
    | false =>
      have legal := (decode_eq_some.mp decoded).2
      exact not_illegal_of_step_eq_exec running stepped fault legal (runsShort long) kind
    | true =>
      obtain ⟨xochip, word⟩ := isLong_iff.mp long
      by_cases extension : s.pc.toNat + 4 ≤ memSize s
      · have legal (nnnn : Word) : (Instr.ldILong nnnn).legalIn s.variant = true := xochip ▸ legalIn_xochip _
        exact not_illegal_of_step_eq_exec running stepped fault (legal _) (runsLong long extension) kind
      · have faulted :=
          extensionFetchOutsideMemoryFaults s running xochip inMemory (Nat.lt_of_not_le extension) word
        cases faulted.symm.trans stepped
        cases fault
        cases kind
  · cases (step_of_outside running (Nat.lt_of_not_le inMemory)).symm.trans stepped
    cases fault
    cases kind

/-! ### Precise faults (R149) -/

/-- A step never stops without a next state: a run-time fault is one (log 5). -/
theorem exists_step (s : State) : ∃ t, step s = .next t := by
  rw [step, cycle]
  split
  · exact ⟨s, rfl⟩
  · split
    · next t _ => exact ⟨t, rfl⟩
    · next i _ => exact (everyInstructionCompletesOrFaults i _).imp fun _ => And.left

theorem stepResult_of_fault (running : stopped s = false) (fault : t.fault = some r) : stepResult s t = .error r := by
  obtain ⟨noFault, notHalted, noWait⟩ := stopped_eq_false.mp running
  simp [stepResult, noFault, notHalted, noWait, fault]

theorem stepResult_of_no_fault (running : stopped s = false) (sound : t.fault = none) :
    stepResult s t = .ok .executed := by
  obtain ⟨noFault, notHalted, noWait⟩ := stopped_eq_false.mp running
  simp [stepResult, noFault, notHalted, noWait, sound]

end

/-- Settles O11: a step that faults takes a sound record in the state with STARTED set, and one that commits writes no
FAULT. -/
theorem faultsArePrecise : Obligations.FaultsArePrecise := by
  intro s running
  obtain ⟨t, stepped⟩ := exists_step s
  refine ⟨t, stepped, ?_⟩
  obtain ⟨stop, -⟩ | ⟨-, ⟨kind, word, addr, sound, rfl⟩ | ⟨i, commits⟩⟩ := step_cases stepped
  · exact absurd (running.symm.trans stop) Bool.false_ne_true
  · exact .inr ⟨_, rfl, rfl, sound, stepResult_of_fault running rfl⟩
  · have noFault : t.fault = none := by
      rw [commits.result]
      exact (writes_fault i _).trans (stopped_eq_false.mp running).1
    exact .inl ⟨noFault, stepResult_of_no_fault running noFault⟩

/-- Settles O9: the decode of the word at PC is the one place where a step raises IllegalInstruction. -/
theorem illegalInstructionExactlyWhenUndecodable : Obligations.IllegalInstructionExactlyWhenUndecodable := by
  intro s t running stepped
  refine ⟨⟨fun ⟨r, fault, kind⟩ => undecodable_of_step_illegal running stepped fault kind, ?_⟩, fun r fault kind => ?_⟩
  · rintro ⟨inMemory, undecodable⟩
    cases (step_of_undecodable running inMemory undecodable).symm.trans stepped
    exact ⟨_, rfl, rfl⟩
  · obtain ⟨inMemory, undecodable⟩ := undecodable_of_step_illegal running stepped fault kind
    cases (step_of_undecodable running inMemory undecodable).symm.trans stepped
    cases fault
    exact ⟨rfl, rfl⟩

/-- Settles O10: the stack guard is the one place where an instruction raises StackFault, and CALL and RET the two
instructions it can stop. -/
theorem stackFaultExactlyOnImbalance : Obligations.StackFaultExactlyOnImbalance := by
  intro i s t noFault executed
  refine ⟨⟨fun ⟨r, fault, kind⟩ => ?_, fun imbalance => ?_⟩, fun r fault _ => ?_⟩
  · exact stackBlocked_iff.mp ((recordOf_of_exec noFault executed fault).stack kind)
  · cases (raises_of_stackBlocked (stackBlocked_iff.mpr imbalance)).symm.trans executed
    exact ⟨_, rfl, rfl⟩
  · have record := recordOf_of_exec noFault executed fault
    exact ⟨record.word, record.pc⟩

end Sys2Proof.Machine
end

section
/-! PROOF. Construction and load (70_reset): what `new` accepts, what a fresh machine holds, and what `load` does. -/

namespace Sys2Proof.Machine

/-! ### What new accepts (R156) -/

section

variable {code : BitVec 2} {p : Params} {small big : List Byte}

theorem variantOfCode_eq_none : variantOfCode code = none ↔ code = 3#2 := by
  revert code; decide

theorem variantOfCode_eq_xochip : variantOfCode code = some .xochip ↔ code = 2#2 := by
  revert code; decide

theorem validParams_iff {v : Variant} : validParams v p = true ↔
    (v = .xochip → 4096 ≤ p.xoMemSize ∧ p.xoMemSize ≤ 65536) ∧ 1 ≤ p.stackDepth := by
  cases v <;> simp [validParams]

theorem validFonts_iff : validFonts small big = true ↔ small.length = 80 ∧ big.length = 160 := by
  simp [validFonts]

end

/-- Everything `new` can do: it makes the fresh machine with its fonts, or it answers InvalidProfile. -/
theorem new_cases (code : BitVec 2) (profile : Byte) (p : Params) (small big : List Byte) :
    (∃ v, variantOfCode code = some v ∧ validParams v p = true ∧ validFonts small big = true ∧
      new code profile p small big = .next (writeFonts (State.construct v profile p) small big)) ∨
    (∀ v, variantOfCode code = some v → validParams v p = true → validFonts small big ≠ true) ∧
      new code profile p small big = .fault .invalidProfile := by
  cases hv : variantOfCode code with
  | none => exact .inr ⟨nofun, by simp [new, hv]⟩
  | some v =>
    by_cases ok : validParams v p = true ∧ validFonts small big = true
    · exact .inl ⟨v, rfl, ok.1, ok.2, by simp [new, hv, ok]⟩
    · refine .inr ⟨fun w hw params fonts => ?_, by simp [new, hv, ok]⟩
      cases hw
      exact ok ⟨params, fonts⟩

/-- Settles O52: the four checks of `new`, in the words of R156. -/
theorem newRefusesExactlyBadParameters : Obligations.NewRefusesExactlyBadParameters := by
  intro code profile p small big
  obtain ⟨v, known, params, fonts, made⟩ | ⟨refuses, refused⟩ := new_cases code profile p small big
  · obtain ⟨range, depth⟩ := validParams_iff.mp params
    obtain ⟨smallSize, bigSize⟩ := validFonts_iff.mp fonts
    refine iff_of_false (by simp [made]) ?_
    rintro (reserved | ⟨xochip, outside⟩ | shallow | wrong | wrong)
    · exact nomatch known.symm.trans (variantOfCode_eq_none.mpr reserved)
    · have := range (Option.some.inj (known.symm.trans (variantOfCode_eq_xochip.mpr xochip)))
      omega
    · omega
    · exact wrong smallSize
    · exact wrong bigSize
  · refine iff_of_true refused ?_
    by_contra good
    simp only [not_or, not_and, not_lt, not_not] at good
    obtain ⟨notReserved, range, depth, smallSize, bigSize⟩ := good
    obtain ⟨v, known⟩ := Option.ne_none_iff_exists'.mp (mt variantOfCode_eq_none.mp notReserved)
    refine refuses v known (validParams_iff.mpr ⟨?_, depth⟩) (validFonts_iff.mpr ⟨smallSize, bigSize⟩)
    rintro rfl
    exact range (variantOfCode_eq_xochip.mp known)

/-! ### What a fresh machine holds (R157, R158) -/

/-- Writing the fonts changes MEM alone. -/
theorem writeFonts_eq (s : State) (small big : List Byte) :
    writeFonts s small big = { s with mem := (writeFonts s small big).mem } := by
  rw [writeFonts, writeRun_eq, writeRun_eq s]

/-- FONT_SMALL takes 0x00 to 0x4F, FONT_BIG 0x50 to 0xEF, and every other byte stays. -/
theorem readByte_writeFonts {s : State} {small big : List Byte} (wf : Memory.wf s.mem = true)
    (smallSize : small.length = 80) (bigSize : big.length = 160) (a : Nat) :
    readByte (writeFonts s small big) a =
      if a < 0x50 then small.getD a 0#8 else if a < 0xF0 then big.getD (a - 0x50) 0#8 else readByte s a := by
  rw [writeFonts, readByte_writeRun (writeRun_wf wf _ _), readByte_writeRun wf, smallSize, bigSize, fontSmallBase,
    fontBigBase]
  rcases Nat.lt_or_ge a 0x50 with below | above
  · rw [if_neg (by omega), if_pos (by omega), if_pos below, Nat.sub_zero]
  · rcases Nat.lt_or_ge a 0xF0 with inBig | past
    · rw [if_pos (by omega), if_neg (by omega), if_pos inBig]
    · rw [if_neg (by omega), if_neg (by omega), if_neg (by omega), if_neg (by omega)]

/-- Past the fonts, the power-on image of a fresh machine is 0. -/
theorem readByte_construct_of_le {a : Nat} (past : 0xF0 ≤ a) (v : Variant) (profile : Byte) (p : Params) :
    readByte (State.construct v profile p) a = 0#8 := by
  change Memory.unlisted a = 0#8
  rw [Memory.unlisted, if_neg (by omega), if_neg (by omega)]

/-- MEM of the machine `new` makes: the two fonts, and 0 elsewhere. -/
theorem readByte_writeFonts_construct {small big : List Byte} (smallSize : small.length = 80)
    (bigSize : big.length = 160) (v : Variant) (profile : Byte) (p : Params) (a : Nat) :
    readByte (writeFonts (State.construct v profile p) small big) a =
      if a < 0x50 then small.getD a 0#8 else if a < 0xF0 then big.getD (a - 0x50) 0#8 else 0#8 := by
  rw [readByte_writeFonts rfl smallSize bigSize]
  split
  · rfl
  · split
    · rfl
    · next past => exact readByte_construct_of_le (Nat.le_of_not_lt past) v profile p

/-- Settles O53: a register reads what `State.construct` gives it, since the fonts change MEM alone; MEM reads as the
fonts over a zero image. -/
theorem newLeavesTheResetValues : Obligations.NewLeavesTheResetValues := by
  intro code profile p small big s answered
  obtain ⟨v, known, -, fonts, made⟩ | ⟨-, refused⟩ := new_cases code profile p small big
  · obtain ⟨smallSize, bigSize⟩ := validFonts_iff.mp fonts
    cases made.symm.trans answered
    have bytes := readByte_writeFonts_construct smallSize bigSize v profile p
    rw [writeFonts_eq] at bytes ⊢
    exact ⟨known, rfl, fun z => Vector.getElem_replicate z.isLt, rfl, rfl, rfl, rfl, rfl, rfl, rfl,
      get_construct_plane v profile p, fun k => Vector.getElem_replicate k.isLt, rfl,
      fun z => Vector.getElem_replicate z.isLt, fun k => BitVec.getLsbD_zero, rfl, rfl, rfl, rfl, rfl, bytes⟩
  · exact nomatch refused.symm.trans answered

/-- Settles O55: the reset state is a fresh machine, with sizes that `new` accepts. -/
theorem resetMeetsTheInvariant : Obligations.ResetMeetsTheInvariant := inv_construct Profile.xo (by decide)

/-! ### load (R160) -/

section

variable {bytes : List Byte} {s : State}

theorem load_of_outsideProtocol (outside : s.loaded = true ∨ s.started = true) :
    load bytes s = .refused .loadOutsideProtocol := by
  simp [load, outside]

theorem load_of_tooLarge (notLoaded : s.loaded = false) (notStarted : s.started = false)
    (tooLarge : memSize s < 0x200 + bytes.length) : load bytes s = .fault .programTooLarge := by
  simp [load, loadAddr, notLoaded, notStarted, tooLarge]

theorem load_of_fits (notLoaded : s.loaded = false) (notStarted : s.started = false)
    (fits : 0x200 + bytes.length ≤ memSize s) :
    load bytes s = .next { writeRun s 0x200 bytes with loaded := true } := by
  simp [load, loadAddr, notLoaded, notStarted, Nat.not_lt.mpr fits]

end

/-- Settles O54: the three outcomes of `load`, and a run of writes from 0x200 in the last. -/
theorem loadWritesTheProgram : Obligations.LoadWritesTheProgram := by
  refine fun bytes s wf => ⟨load_of_outsideProtocol, load_of_tooLarge, fun notLoaded notStarted fits =>
    ⟨_, load_of_fits notLoaded notStarted fits, by rw [writeRun_eq], fun k inside => ?_, fun a outside => ?_⟩⟩
  · calc readByte { writeRun s 0x200 bytes with loaded := true } (0x200 + k)
      _ = readByte (writeRun s 0x200 bytes) (0x200 + k) := rfl
      _ = bytes.getD k 0#8 := by
        rw [readByte_writeRun wf, if_pos (by omega), Nat.add_sub_cancel_left]
  · calc readByte { writeRun s 0x200 bytes with loaded := true } a
      _ = readByte (writeRun s 0x200 bytes) a := rfl
      _ = readByte s a := by rw [readByte_writeRun wf, if_neg (by omega)]

end Sys2Proof.Machine
end
